-- ==== Sys2Proof/Word.lean ====
section
/-! DEFINITION. The word types of ULPF (00_scope.md R7, R9): every value is an unsigned bit vector. -/

namespace Sys2Proof

/-- One byte: every wire field, register and bus transfer (00_scope.md R7, R15). -/
abbrev Byte := BitVec 8

/-- A 32-bit register or counter: TIMEOUT, GUARD, TMR, GCNT (00_scope.md R7). -/
abbrev Word32 := BitVec 32

/-- A host register address, 10 bits (00_scope.md R7; 20_memory.md R60). -/
abbrev Addr := BitVec 10

end Sys2Proof
end

