-- ==== Sys2Proof/Syntax.lean ====
section
/-! DEFINITION. The instruction set: one constructor per row of spec/opcode_table.json (30_encoding.md R110). -/

namespace Sys2Proof

/-- A command: the meaning of one byte written to CMD (30_encoding.md R110). Commands have no operand fields;
operands come from registers (R111). -/
inductive Instr where
  /-- 0x00 (43_controller.md R200) -/
  | nop
  /-- 0x01 (42_monitor.md R179) -/
  | rxReset
  /-- 0x02 (44_circular_buffer.md R258) -/
  | fifoFlush
  /-- 0x03 (40_packet_checksum.md R134) -/
  | setChecksum
  /-- 0x04 (41_builder.md R151) -/
  | buildRead
  /-- 0x05 (41_builder.md R152) -/
  | buildWrite8
  /-- 0x06 (41_builder.md R153) -/
  | buildWrite16
  /-- 0x07 (43_controller.md R220) -/
  | send
  /-- 0x08 (43_controller.md R221) -/
  | transact
  /-- 0x09 (43_controller.md R222) -/
  | receive
  /-- 0x0A (43_controller.md R223) -/
  | abort
  /-- 0x0B (43_controller.md R226) -/
  | readReg
  /-- 0x0C (43_controller.md R224) -/
  | writeReg8
  /-- 0x0D (43_controller.md R225) -/
  | writeReg16
  /-- 0x0E to 0xFF, the row RESERVED: the byte that was written (30_encoding.md R114) -/
  | reserved (code : Byte)
  deriving DecidableEq, Repr

end Sys2Proof
end

