-- ==== Sys2Proof/WellFormed.lean ====
section
/-! DEFINITION. Which terms of `Instr` stand for a command byte. -/

namespace Sys2Proof

/-- The reserved codes are exactly 0x0E to 0xFF (30_encoding.md R114): a `reserved` term with a lower code is
no encoding. Every other constructor has no field to check. -/
def Instr.wf : Instr → Bool
  | .reserved code => decide (0x0E#8 ≤ code)
  | .nop | .rxReset | .fifoFlush | .setChecksum | .buildRead | .buildWrite8 | .buildWrite16
  | .send | .transact | .receive | .abort | .readReg | .writeReg8 | .writeReg16 => true

end Sys2Proof
end

