-- ==== Sys2Proof/Decode.lean ====
section
/-! DEFINITION. The command decoder, total on any bytes, and after it the encoder (30_encoding.md R110, R114, R115). -/

namespace Sys2Proof

/-- Why a byte sequence holds no command. Every single byte is one (reserved codes decode to `reserved`), so the
only cause is that there is no byte. -/
inductive DecodeError where
  | noByte
  deriving DecidableEq, Repr

/-- The command a byte written to CMD stands for (30_encoding.md R110, R114): the whole byte is the code. -/
def decodeByte (b : Byte) : Instr :=
  match b.toNat with
  | 0x00 => .nop
  | 0x01 => .rxReset
  | 0x02 => .fifoFlush
  | 0x03 => .setChecksum
  | 0x04 => .buildRead
  | 0x05 => .buildWrite8
  | 0x06 => .buildWrite16
  | 0x07 => .send
  | 0x08 => .transact
  | 0x09 => .receive
  | 0x0A => .abort
  | 0x0B => .readReg
  | 0x0C => .writeReg8
  | 0x0D => .writeReg16
  | _ => .reserved b

/-- Decode the first command of a byte sequence and return the rest: every command is exactly one byte
(30_encoding.md R115). -/
def decode : List Byte → Except DecodeError (Instr × List Byte)
  | [] => .error .noByte
  | b :: rest => .ok (decodeByte b, rest)

/-- The command's code (30_encoding.md R110). -/
def Instr.code : Instr → Byte
  | .nop => 0x00#8
  | .rxReset => 0x01#8
  | .fifoFlush => 0x02#8
  | .setChecksum => 0x03#8
  | .buildRead => 0x04#8
  | .buildWrite8 => 0x05#8
  | .buildWrite16 => 0x06#8
  | .send => 0x07#8
  | .transact => 0x08#8
  | .receive => 0x09#8
  | .abort => 0x0A#8
  | .readReg => 0x0B#8
  | .writeReg8 => 0x0C#8
  | .writeReg16 => 0x0D#8
  | .reserved code => code

/-- The bytes of a command: one byte, its code (30_encoding.md R110, R115). -/
def encode (i : Instr) : List Byte := [i.code]

/-- The first `n` bytes of a number whose bit 0 is the least significant bit of the first byte. -/
def bytesOf : Nat → Nat → List Byte
  | 0, _ => []
  | n + 1, w => BitVec.ofNat 8 w :: bytesOf n (w / 256)

/-- The bits of an instruction of `nbits` bits laid out as the bytes the host writes. -/
def layOut (nbits w : Nat) : List Byte := bytesOf ((nbits + 7) / 8) (w % 2 ^ nbits)

/-- The instruction the decoder reads from an instruction of `nbits` bits `w`; none where it refuses or where
bytes are left over, since every command is exactly one byte (30_encoding.md R115). -/
def decodeTableWord (nbits w : Nat) : Option Instr :=
  match decode (layOut nbits w) with
  | .ok (i, []) => some i
  | _ => none

end Sys2Proof
end

