-- ==== Sys2Proof/Config.lean ====
section
/-! DEFINITION. What an implementation fixes (the named parameters), the input ports of one cycle, and the free values. -/

namespace Sys2Proof

/-- The named parameters of the spec with their defaults (00_scope.md R4 to R6; 92_eei_decisions.md table 2).
A value of this type is legal by construction: the two proof fields are the legal ranges of R4 and R5.
They are carried in `State.params`, so a statement about every state is a statement about every legal
parameter value (log 5). -/
structure Params where
  /-- PAYLOAD_CAP, the capacity of TX_PAY and RX_PAY in bytes (R4). -/
  payloadCap : Nat := 20
  /-- log2 of RX_FIFO_DEPTH = D, which must be a power of two (R5). -/
  fifoLog : Nat := 6
  /-- INSTR_READ, the wire code the builder writes for Read (R6). -/
  instrRead : Byte := 0x02
  /-- INSTR_WRITE, the wire code the builder writes for Write (R6). -/
  instrWrite : Byte := 0x03
  /-- 20 ≤ PAYLOAD_CAP ≤ 253 (R4). -/
  capLegal : 20 ≤ payloadCap ∧ payloadCap ≤ 253 := by decide
  /-- 2 ≤ D ≤ 128 (R5). -/
  depthLegal : 1 ≤ fifoLog ∧ fifoLog ≤ 7 := by decide
  deriving DecidableEq, Repr

/-- RX_FIFO_DEPTH, written D: the capacity of the receive FIFO in bytes (00_scope.md R5). -/
def Params.fifoDepth (p : Params) : Nat := 2 ^ p.fifoLog

/-- The values of the input ports in one cycle (10_state.md R21). -/
structure CycleInput where
  /-- synchronous reset -/
  rst : Bool := false
  /-- host read strobe -/
  busRe : Bool := false
  /-- host write strobe -/
  busWe : Bool := false
  /-- host register address, shared by a read and a write of one cycle (R24) -/
  busAddr : Addr := 0
  /-- host write data -/
  busWdata : Byte := 0
  /-- the PHY delivers one received byte this cycle (R22) -/
  rxValid : Bool := false
  /-- the received byte, meaningful when `rxValid` -/
  rxData : Byte := 0
  /-- the PHY accepts the offered byte this cycle (R23) -/
  txReady : Bool := false
  deriving DecidableEq, Repr, Inhabited

/-- FREE VALUE (log 2). The inputs of cycle n, when no drive is listed for it: 10_state.md R20 makes every input
port a free input of each step. It has no body, so nothing can be proved of it. -/
opaque Config.freeInput : Nat → CycleInput

/-- FREE VALUE (log 7). What the transmit byte function gives at a position outside the frame, where
30_encoding.md R101 gives no byte. No reachable state asks for it (10_state.md R48 I5). -/
opaque Config.freeFrameByte : Nat → Byte

end Sys2Proof
end

