-- ==== Sys2Proof/Machine/State.lean ====
section
/-! DEFINITION. The state of ULPF as plain data: every element of 10_state.md R25, the model's own three fields
(`params`, `inputs`, `cycle`), the reset state, and the reasons a step can stop. -/

namespace Sys2Proof.Machine

open Sys2Proof

/-- SEQ, the transaction sequencer state (10_state.md R26). The values 6 and 7 are never stored and cannot be
written down here (93_implementation_defined.md U16; log 9). -/
inductive SeqState where
  | idle | sending | guard | await | complete | timedOut
  deriving DecidableEq, Repr

/-- RXSTATE, the deserializer phase (10_state.md R27). The values 6 and 7 are never stored (U16; log 9). -/
inductive RxPhase where
  | header1 | header2 | packetId | length | payload | ready
  deriving DecidableEq, Repr

/-- ERR, the code of the most recent refusal (20_memory.md R68; 60_exceptions.md R272). The values 5 to 7 are never
stored (U16; log 9). -/
inductive ErrCode where
  | none | illegal | busy | payloadOverflow | badLength
  deriving DecidableEq, Repr

/-- A byte buffer: (index, byte) pairs with indices strictly rising and no byte 0x00. An unlisted index reads 0x00,
the reset contents of every buffer (70_reset_and_hazards.md R311; log 11). -/
abbrev Memory := List Host.Cell

/-- The TX packet (10_state.md R29). -/
structure TxPacket where
  /-- TX_ID -/
  id : Byte := 0
  /-- TX_LEN -/
  len : Byte := 0
  /-- TX_OP -/
  op : Byte := 0
  /-- TX_CS -/
  cs : Byte := 0
  /-- TX_PAY -/
  pay : Memory := []
  deriving DecidableEq, Repr

/-- The receive deserializer with the RX packet (10_state.md R27, R30). -/
structure RxUnit where
  /-- RXSTATE -/
  phase : RxPhase := .header1
  /-- RX_POS -/
  pos : Byte := 0
  /-- RX_ID -/
  id : Byte := 0
  /-- RX_LEN -/
  len : Byte := 0
  /-- RX_OP -/
  op : Byte := 0
  /-- RX_CS -/
  cs : Byte := 0
  /-- RX_PAY -/
  pay : Memory := []
  deriving DecidableEq, Repr

/-- The receive FIFO (10_state.md R35; 44_circular_buffer.md R256). The cursors are numbers below 2*D; every
operation on them is modulo 2*D. -/
structure Fifo where
  /-- FIFO_MEM -/
  mem : Memory := []
  /-- FIFO_WR -/
  wr : Nat := 0
  /-- FIFO_RD -/
  rd : Nat := 0
  deriving DecidableEq, Repr

/-- The transaction sequencer and the transmit serializer (10_state.md R25, R26, R28, R32, R33). -/
structure Sequencer where
  /-- SEQ -/
  seq : SeqState := .idle
  /-- MODE: false = 0 (IDLE after the guard), true = 1 (AWAIT after the guard) -/
  mode : Bool := false
  /-- TX_IDX -/
  txIdx : BitVec 9 := 0
  /-- GCNT -/
  gcnt : Word32 := 0
  /-- TMR -/
  tmr : Word32 := 0
  deriving DecidableEq, Repr

/-- The operand, control and status registers (10_state.md R25, R31, R34). -/
structure HostRegs where
  /-- TIMEOUT -/
  timeout : Word32 := 0
  /-- GUARD -/
  guard : Word32 := 0
  /-- ARG0 -/
  arg0 : Byte := 0
  /-- ARG1 -/
  arg1 : Byte := 0
  /-- ARG2 -/
  arg2 : Byte := 0
  /-- STATUS -/
  status : BitVec 5 := 0
  /-- IRQ_EN -/
  irqEn : BitVec 5 := 0
  /-- ERR -/
  err : ErrCode := .none
  deriving DecidableEq, Repr

/-- The machine. `tx`, `rx`, `fifo`, `sqr` and `regs` are exactly the elements of 10_state.md R25. `params`,
`inputs` and `cycle` are the model's own: the implementation's parameters (log 5), the input ports' values of the
coming cycles, oldest first (log 1), and the number of the cycle, which names the free draw of the inputs of a cycle
for which no values are listed (log 2). -/
structure State where
  params : Params := {}
  inputs : List CycleInput := []
  cycle : Nat := 0
  tx : TxPacket := {}
  rx : RxUnit := {}
  fifo : Fifo := {}
  sqr : Sequencer := {}
  regs : HostRegs := {}
  deriving DecidableEq, Repr

/-- A fault would be a stop of the machine that the spec describes. ULPF has none: it takes no trap, and no error is
fatal (60_exceptions.md R280, R292; 93_implementation_defined.md part 1, "No entry is a fault"). The type is empty, so no
meaning can end in a fault. -/
inductive Fault where
  deriving DecidableEq, Repr

/-- Reasons the MODEL gives no meaning. -/
inductive Refusal where
  /-- Raised by an arm of `exec` for a command that has no meaning in the model; no arm raises it. Safe: it stops the
  run and proves nothing about the hardware. -/
  | notModelled (mnemonic : String)
  deriving DecidableEq, Repr

/-- ResetState for given parameters, cycle number and coming inputs: every element of 10_state.md R25 at the value
70_reset_and_hazards.md R311 gives it. -/
def State.resetWith (p : Params) (cycle : Nat) (inputs : List CycleInput) : State where
  params := p
  inputs := inputs
  cycle := cycle
  tx := { id := 0x00, len := 0x00, op := 0x00, cs := 0x00, pay := [] }
  rx := { phase := .header1, pos := 0, id := 0x00, len := 0x00, op := 0x00, cs := 0x00, pay := [] }
  fifo := { mem := [], wr := 0, rd := 0 }
  sqr := { seq := .idle, mode := false, txIdx := 0, gcnt := 0, tmr := 0 }
  regs :=
    { timeout := 0, guard := 0, arg0 := 0x00, arg1 := 0x00, arg2 := 0x00, status := 0, irqEn := 0, err := .none }

/-- The machine right after reset (70_reset_and_hazards.md R311), with the default parameters of 00_scope.md R4 to R6, in
cycle 0, with no drive of the inputs listed. -/
def State.reset : State := State.resetWith {} 0 []

end Sys2Proof.Machine
end

