-- ==== Sys2Proof/Machine/Ops.lean ====
section
/-! DEFINITION. The named operations: byte buffers, bit fields, the input ports, the receive FIFO, the checksum, the
deserializer reset, and the refusal of a host write. -/

namespace Sys2Proof.Machine

open Sys2Proof

/-! ## Byte buffers -/

/-- The byte at an index; an unlisted index reads 0x00 (70_reset_and_hazards.md R311; log 11). -/
def Memory.read : Memory → Nat → Byte
  | [], _ => 0#8
  | (k, v) :: m, a => if k = a then v else Memory.read m a

/-- The buffer with nothing listed at an index. -/
def Memory.erase : Memory → Nat → Memory
  | [], _ => []
  | (k, v) :: m, a => if k = a then Memory.erase m a else (k, v) :: Memory.erase m a

/-- List a byte at an index, before the first higher index. -/
def Memory.insert : Memory → Nat → Byte → Memory
  | [], a, b => [(a, b)]
  | (k, v) :: m, a, b => if a < k then (a, b) :: (k, v) :: m else (k, v) :: Memory.insert m a b

/-- Store a byte at an index. The byte an unlisted index reads as is not listed, so equal buffers are equal lists. -/
def Memory.write (m : Memory) (a : Nat) (b : Byte) : Memory :=
  if b = 0#8 then Memory.erase m a else Memory.insert (Memory.erase m a) a b

/-- Every listed index is above `lo` and they rise strictly; no byte is 0x00. -/
def Memory.wfAbove : Nat → Memory → Bool
  | _, [] => true
  | lo, (k, v) :: m => decide (lo ≤ k) && decide (v ≠ 0#8) && Memory.wfAbove (k + 1) m

/-- The canonical form: indices strictly rising, no byte equal to what an unlisted index reads as. -/
def Memory.wf (m : Memory) : Bool := Memory.wfAbove 0 m

/-- Every listed index is below a capacity. -/
def Memory.below (cap : Nat) (m : Memory) : Bool := m.all fun cell => decide (cell.1 < cap)

/-! ## Bit fields of the 32-bit registers -/

/-- Byte `k` of a 32-bit register, byte 0 lowest (20_memory.md R76). -/
def byteOfWord (w : Word32) (k : Fin 4) : Byte := BitVec.ofNat 8 (w.toNat >>> (8 * k.val))

/-- A 32-bit register with byte `k` replaced (20_memory.md R76). -/
def setByteOfWord (w : Word32) (k : Fin 4) (b : Byte) : Word32 :=
  match k with
  | 0 => byteOfWord w 3 ++ byteOfWord w 2 ++ byteOfWord w 1 ++ b
  | 1 => byteOfWord w 3 ++ byteOfWord w 2 ++ b ++ byteOfWord w 0
  | 2 => byteOfWord w 3 ++ b ++ byteOfWord w 1 ++ byteOfWord w 0
  | 3 => b ++ byteOfWord w 2 ++ byteOfWord w 1 ++ byteOfWord w 0

/-! ## Encodings of the enumerations -/

/-- SEQ as the host reads it (10_state.md R26). -/
def SeqState.bits : SeqState → BitVec 3
  | .idle => 0#3
  | .sending => 1#3
  | .guard => 2#3
  | .await => 3#3
  | .complete => 4#3
  | .timedOut => 5#3

/-- RXSTATE as the host reads it (10_state.md R27). -/
def RxPhase.bits : RxPhase → BitVec 3
  | .header1 => 0#3
  | .header2 => 1#3
  | .packetId => 2#3
  | .length => 3#3
  | .payload => 4#3
  | .ready => 5#3

/-- ERR as the host reads it (20_memory.md R68; 60_exceptions.md R272). -/
def ErrCode.bits : ErrCode → BitVec 3
  | .none => 0#3
  | .illegal => 1#3
  | .busy => 2#3
  | .payloadOverflow => 3#3
  | .badLength => 4#3

/-! ## The input ports and the clock -/

/-- The values of the input ports in this cycle: the oldest listed drive, or, where none is listed, a free draw
(10_state.md R20; log 1, log 2). -/
def State.input (s : State) : CycleInput :=
  match s.inputs with
  | [] => Config.freeInput s.cycle
  | i :: _ => i

/-- The clock edge's own bookkeeping: the cycle's inputs are used up and the next cycle has the next number. -/
def State.tick (s : State) : State := { s with inputs := s.inputs.tail, cycle := s.cycle + 1 }

/-- The state after an edge with rst = 1 (10_state.md R41; 70_reset_and_hazards.md R310): ResetState, whatever the
state and the other inputs. -/
def resetCycle (s : State) : State := State.resetWith s.params (s.cycle + 1) s.inputs.tail

/-- The byte the host writes to CMD (address 0x000) in this cycle, if it does (20_memory.md R65): the fetch of a
machine whose instruction stream is the sequence of command writes (10_state.md R33). -/
def fetchCommand (i : CycleInput) : Option Byte :=
  if i.busWe ∧ i.busAddr = 0#10 then some i.busWdata else none

/-! ## BUSY and the direction of the line -/

/-- BUSY: SEQ ∈ {SENDING, GUARD, AWAIT} (60_exceptions.md R275). -/
def State.busy (s : State) : Bool :=
  match s.sqr.seq with
  | .sending | .guard | .await => true
  | .idle | .complete | .timedOut => false

/-- rx_en: 0 while SENDING and GUARD, else 1 (10_state.md R36). -/
def rxEn (s : State) : Bool :=
  match s.sqr.seq with
  | .sending | .guard => false
  | .idle | .await | .complete | .timedOut => true

/-! ## The receive FIFO -/

/-- Count = (FIFO_WR - FIFO_RD) mod 2*D (44_circular_buffer.md R251). -/
def Fifo.count (d : Nat) (f : Fifo) : Nat := (((f.wr : Int) - (f.rd : Int)) % ((2 * d : Nat) : Int)).toNat

/-- Push: store at the write cursor's slot and advance it; it always succeeds (R252, R255). -/
def Fifo.push (d : Nat) (f : Fifo) (b : Byte) : Fifo :=
  { f with mem := f.mem.write (f.wr % d) b, wr := (f.wr + 1) % (2 * d) }

/-- The byte Pop returns: the slot of the read cursor (R253). -/
def Fifo.head (d : Nat) (f : Fifo) : Byte := f.mem.read (f.rd % d)

/-- The read cursor after a Pop (R253). -/
def Fifo.nextRd (d : Nat) (f : Fifo) : Nat := (f.rd + 1) % (2 * d)

/-- Flush: FIFO_RD <- FIFO_WR (R257). -/
def Fifo.flush (f : Fifo) : Fifo := { f with rd := f.wr }

/-- Count(S) (R251). -/
def State.fifoCount (s : State) : Nat := s.fifo.count s.params.fifoDepth

/-! ## The checksum unit -/

/-- The sum modulo 256 of a buffer's first `n` bytes (40_packet_checksum.md R130). -/
def paySum (pay : Memory) : Nat → Byte
  | 0 => 0#8
  | n + 1 => paySum pay n + pay.read n

/-- Checksum(id, len, op, pay): the complement of the 8-bit sum of id, len, op and the first len - 2 payload bytes
(40_packet_checksum.md R130 to R132). -/
def checksum (id len op : Byte) (pay : Memory) : Byte := ~~~(id + len + op + paySum pay (len.toNat - 2))

/-- The checksum of the TX packet as it stands (40_packet_checksum.md R134). -/
def TxPacket.checksum (p : TxPacket) : Byte := Machine.checksum p.id p.len p.op p.pay

/-- The TX packet with TX_CS computed from it (40_packet_checksum.md R135). -/
def TxPacket.sealed (p : TxPacket) : TxPacket := { p with cs := p.checksum }

/-- Verify: the packet's checksum byte is the checksum of the packet (40_packet_checksum.md R133). -/
def verify (id len op : Byte) (pay : Memory) (cs : Byte) : Bool := decide (cs = checksum id len op pay)

/-! ## The deserializer's reset -/

/-- RxReset: RXSTATE <- HEADER1, RX_POS <- 0; the RX packet registers keep their bytes (42_monitor.md R171). -/
def RxUnit.reset (r : RxUnit) : RxUnit := { r with phase := .header1, pos := 0#8 }

/-! ## Host writes -/

/-- What the host's write of the cycle comes to (10_state.md R42): nothing; an accepted register write with its
phase 5 effect and its W1C mask of STATUS; an accepted command with its phase 5 effect; a refusal with its code. An
effect maps the pre-state and the state after phase 4 to the state after phase 5. -/
inductive HostWrite where
  | none
  | reg (w1c : BitVec 5) (effect : State → State → State)
  | cmd (c : Instr) (effect : State → State → State)
  | refused (e : ErrCode)

/-- The refusal of a host write, ULPF's one form of taking an exception (60_exceptions.md R272, "raise CmdError"):
nothing of the write happens, and phase 6 records CMDERR and the code. -/
def raiseCmdError (e : ErrCode) : HostWrite := .refused e

/-- A command that is refused with the first failing check of 30_encoding.md R112, or accepted with its effect. -/
def acceptOrRefuse (failure : Option ErrCode) (c : Instr) (effect : State → State → State) : HostWrite :=
  match failure with
  | some e => raiseCmdError e
  | none => .cmd c effect

/-- Is the cycle's write an accepted ABORT of a response wait (10_state.md R45; 43_controller.md R223)? -/
def abortsAwait (s : State) : HostWrite → Bool
  | .cmd .abort _ => decide (s.sqr.seq = .await)
  | _ => false

/-- RxAffecting(S, H) (10_state.md R44; the column of 30_encoding.md R110). -/
def rxAffecting (s : State) (h : HostWrite) : Bool :=
  match h with
  | .cmd c _ =>
    match c with
    | .rxReset | .fifoFlush | .send | .transact | .receive | .readReg | .writeReg8 | .writeReg16 => true
    | .abort => abortsAwait s h
    | .nop | .setChecksum | .buildRead | .buildWrite8 | .buildWrite16 | .reserved _ => false
  | .none | .reg _ _ | .refused _ => false

end Sys2Proof.Machine
end

