-- ==== Sys2Proof/Machine/Deserializer.lean ====
section
/-! DEFINITION. The receive deserializer (42_monitor.md): one transition per byte. -/

namespace Sys2Proof.Machine

open Sys2Proof

/-- HEADER1 on a byte (42_monitor.md R173). -/
def RxUnit.onHeader1 (r : RxUnit) (b : Byte) : RxUnit := if b = 0xFF#8 then { r with phase := .header2 } else r

/-- HEADER2 on a byte (R173). -/
def RxUnit.onHeader2 (r : RxUnit) (b : Byte) : RxUnit :=
  { r with phase := if b = 0xFF#8 then .packetId else .header1 }

/-- PACKETID on a byte (R174). -/
def RxUnit.onPacketId (r : RxUnit) (b : Byte) : RxUnit := { r with id := b, phase := .length }

/-- LENGTH on a byte (R175): a length outside 2..PAYLOAD_CAP+2 discards the frame. -/
def RxUnit.onLength (cap : Nat) (r : RxUnit) (b : Byte) : RxUnit :=
  { r with
    len := b
    pos := 0#8
    phase := if 2 ≤ b.toNat ∧ b.toNat ≤ cap + 2 then .payload else .header1 }

/-- Where the byte at payload position p goes (R176): RX_OP, RX_PAY[p - 1] or RX_CS. -/
def RxUnit.storePayloadByte (r : RxUnit) (b : Byte) : RxUnit :=
  if r.pos = 0#8 then { r with op := b }
  else if r.pos.toNat < r.len.toNat - 1 then { r with pay := r.pay.write (r.pos.toNat - 1) b }
  else { r with cs := b }

/-- RXSTATE after a payload-phase byte (R176, R177): the last byte is compared with the checksum of the frame, read
from the pre-state. -/
def RxUnit.payloadPhase (r : RxUnit) (b : Byte) : RxPhase :=
  if r.pos.toNat + 1 = r.len.toNat then
    if verify r.id r.len r.op r.pay b then .ready else .header1
  else .payload

/-- PAYLOAD on a byte (R176, R177). -/
def RxUnit.onPayload (r : RxUnit) (b : Byte) : RxUnit :=
  { r.storePayloadByte b with pos := r.pos + 1#8, phase := r.payloadPhase b }

/-- RxByte: exactly one transition per consumed byte (42_monitor.md R172). READY consumes nothing (R178). -/
def RxUnit.consume (cap : Nat) (r : RxUnit) (b : Byte) : RxUnit :=
  match r.phase with
  | .header1 => r.onHeader1 b
  | .header2 => r.onHeader2 b
  | .packetId => r.onPacketId b
  | .length => r.onLength cap b
  | .payload => r.onPayload b
  | .ready => r

end Sys2Proof.Machine
end

