-- ==== Sys2Proof/Machine/Flags.lean ====
section
/-! DEFINITION. The STATUS bits, the events of a cycle and phase 6 (10_state.md R47; 20_memory.md R66), and the
interrupt line. -/

namespace Sys2Proof.Machine

open Sys2Proof

/-- The events of one cycle, one per STATUS bit (20_memory.md R66). -/
structure Events where
  /-- bit 0: SEQ enters COMPLETE -/
  done : Bool
  /-- bit 1: SEQ enters TIMEDOUT -/
  timeout : Bool
  /-- bit 2: a guard interval ends -/
  txDone : Bool
  /-- bit 3: RXSTATE enters READY -/
  rxRdy : Bool
  /-- bit 4: a host write is refused -/
  cmdErr : Bool
  deriving DecidableEq, Repr

/-- The events at their STATUS bit positions (20_memory.md R66). -/
def Events.bits (e : Events) : BitVec 5 :=
  BitVec.ofBool e.cmdErr ++ BitVec.ofBool e.rxRdy ++ BitVec.ofBool e.txDone ++ BitVec.ofBool e.timeout
    ++ BitVec.ofBool e.done

/-- Is the host's write refused? -/
def HostWrite.isRefused : HostWrite → Bool
  | .refused _ => true
  | .none | .reg _ _ | .cmd _ _ => false

/-- The events of a cycle, from the pre-state, the states after phases 3 and 4, and the host's write
(10_state.md R47): a phase raised an event exactly when it made the move the event reports (log 12). -/
def eventsOf (s afterRx afterSeq : State) (h : HostWrite) : Events where
  done := decide (s.sqr.seq ≠ .complete ∧ afterSeq.sqr.seq = .complete)
  timeout := decide (s.sqr.seq ≠ .timedOut ∧ afterSeq.sqr.seq = .timedOut)
  txDone := decide (s.sqr.seq = .guard ∧ afterSeq.sqr.seq ≠ .guard)
  rxRdy := decide (s.rx.phase ≠ .ready ∧ afterRx.rx.phase = .ready)
  cmdErr := h.isRefused

/-- W, the STATUS bits the host clears this cycle (10_state.md R47). -/
def HostWrite.w1cMask : HostWrite → BitVec 5
  | .reg w _ => w
  | .none | .cmd _ _ | .refused _ => 0#5

/-- ERR after the cycle: the refusal's code, else NONE when CMDERR is cleared, else unchanged (10_state.md R47). -/
def nextErr (s : State) (h : HostWrite) : ErrCode :=
  match h with
  | .refused e => e
  | .none | .reg _ _ | .cmd _ _ => if h.w1cMask.getLsbD 4 then .none else s.regs.err

/-- STATUS after the cycle: an event wins over a host clear of the same bit (10_state.md R47). -/
def nextStatus (s : State) (h : HostWrite) (e : Events) : BitVec 5 := (s.regs.status &&& ~~~h.w1cMask) ||| e.bits

/-- Phase 6 applied to the state after phase 5 (10_state.md R47). -/
def updateStatus (s : State) (h : HostWrite) (e : Events) (t : State) : State :=
  { t with regs := { t.regs with status := nextStatus s h e, err := nextErr s h } }

/-- irq: a level, 1 exactly when an enabled STATUS bit is set (10_state.md R38; 60_exceptions.md R278). -/
def irq (s : State) : Bool := decide (s.regs.status &&& s.regs.irqEn ≠ 0#5)

end Sys2Proof.Machine
end

