-- ==== Sys2Proof/Machine/Operands.lean ====
section
/-! DEFINITION. Operand assembly (30_encoding.md R111) and the acceptance checks (R112, R113). Every operand is read
from the pre-state of the command's cycle (20_memory.md R85). -/

namespace Sys2Proof.Machine

open Sys2Proof

/-- address = ARG0 (R111). -/
def State.address (s : State) : Byte := s.regs.arg0

/-- count = ARG1 (R111). -/
def State.countOperand (s : State) : Byte := s.regs.arg1

/-- value8 = ARG1 (R111). -/
def State.value8 (s : State) : Byte := s.regs.arg1

/-- value16 = ARG2 : ARG1, ARG1 the low byte (R111). -/
def State.value16 (s : State) : BitVec 16 := s.regs.arg2 ++ s.regs.arg1

/-- The low byte of a 16-bit value (20_memory.md R77). -/
def lowByte (v : BitVec 16) : Byte := BitVec.ofNat 8 v.toNat

/-- The high byte of a 16-bit value (20_memory.md R77). -/
def highByte (v : BitVec 16) : Byte := BitVec.ofNat 8 (v.toNat >>> 8)

/-- The BUSY check of a command that needs idle (R112 (2)). -/
def busyCheck (s : State) : Option ErrCode := if s.busy then some .busy else none

/-- The operand check of BUILD_READ and READ_REG: count > PAYLOAD_CAP is refused (R112 (3)). -/
def countCheck (s : State) : Option ErrCode :=
  if s.params.payloadCap < s.countOperand.toNat then some .payloadOverflow else none

/-- The TX_LEN check of SET_CHECKSUM, SEND and TRANSACT (R113). -/
def txLenCheck (s : State) : Option ErrCode :=
  if s.tx.len.toNat < 2 then some .badLength
  else if s.params.payloadCap + 2 < s.tx.len.toNat then some .payloadOverflow
  else none

/-- The first failing check of a list, in its order (R112). -/
def firstFailure : List (Option ErrCode) → Option ErrCode
  | [] => none
  | some e :: _ => some e
  | none :: rest => firstFailure rest

end Sys2Proof.Machine
end

