-- ==== Sys2Proof/Machine/Sequencer.lean ====
section
/-! DEFINITION. The per-cycle steps of the transaction sequencer (43_controller.md section 3). Each takes the pre-state
`s` and the state `t` after phase 3, and writes into `t`. -/

namespace Sys2Proof.Machine

open Sys2Proof

/-- SENDING (43_controller.md R230). -/
def sendStep (s t : State) (txReady : Bool) : State :=
  if txReady then
    if s.sqr.txIdx + 1#9 = s.tx.len.zeroExtend 9 + 4#9 then
      { t with sqr := { t.sqr with txIdx := s.sqr.txIdx + 1#9, seq := .guard, gcnt := 0#32 } }
    else { t with sqr := { t.sqr with txIdx := s.sqr.txIdx + 1#9 } }
  else t

/-- GUARD (43_controller.md R231): the guard ends when GCNT has reached GUARD. -/
def guardStep (s t : State) : State :=
  if s.sqr.gcnt = s.regs.guard then
    if s.sqr.mode then { t with sqr := { t.sqr with seq := .await, tmr := 0#32 }, rx := t.rx.reset }
    else { t with sqr := { t.sqr with seq := .idle } }
  else { t with sqr := { t.sqr with gcnt := s.sqr.gcnt + 1#32 } }

/-- AWAIT (43_controller.md R232): reads RXSTATE as left by phase 3; a completion wins over the timeout. -/
def awaitStep (s t : State) : State :=
  if t.rx.phase = .ready then { t with sqr := { t.sqr with seq := .complete } }
  else if s.sqr.tmr = s.regs.timeout then
    { t with sqr := { t.sqr with seq := .timedOut }, rx := t.rx.reset }
  else { t with sqr := { t.sqr with tmr := s.sqr.tmr + 1#32 } }

/-- SeqStep by S.SEQ (10_state.md R45). IDLE, COMPLETE and TIMEDOUT are quiescent (R49). -/
def seqStep (s t : State) (txReady : Bool) : State :=
  match s.sqr.seq with
  | .sending => sendStep s t txReady
  | .guard => guardStep s t
  | .await => awaitStep s t
  | .idle | .complete | .timedOut => t

end Sys2Proof.Machine
end

