-- ==== Sys2Proof/Machine/Cycle.lean ====
section
/-! DEFINITION. One clock edge with rst = 0, in the phases of 10_state.md R40, for a classified host write. -/

namespace Sys2Proof.Machine

open Sys2Proof

/-- Phase 2, ingress (10_state.md R43): the offered byte is pushed while rx_en = 1, and dropped otherwise. -/
def afterIngress (s : State) : State :=
  if s.input.rxValid && rxEn s then { s with fifo := s.fifo.push s.params.fifoDepth s.input.rxData } else s

/-- Does phase 3 pop a byte this cycle (10_state.md R44)? -/
def pops (s : State) (h : HostWrite) : Bool :=
  !rxAffecting s h && decide (s.rx.phase ≠ .ready) && decide (s.fifoCount ≠ 0)

/-- Phase 3, deserializer (10_state.md R44): at most one byte, read at the pre-state cursor from the pre-state FIFO
(44_circular_buffer.md R253, R259). -/
def afterDeserializer (s : State) (h : HostWrite) : State :=
  let t := afterIngress s
  if pops s h then
    { t with
      fifo := { t.fifo with rd := s.fifo.nextRd s.params.fifoDepth }
      rx := s.rx.consume s.params.payloadCap (s.fifo.head s.params.fifoDepth) }
  else t

/-- Phase 4, sequencer (10_state.md R45): an accepted ABORT of a response wait suppresses it. -/
def afterSequencer (s : State) (h : HostWrite) : State :=
  if abortsAwait s h then afterDeserializer s h else seqStep s (afterDeserializer s h) s.input.txReady

/-- Phase 5, host effects (10_state.md R46). -/
def afterHost (s : State) (h : HostWrite) : State :=
  match h with
  | .reg _ effect | .cmd _ effect => effect s (afterSequencer s h)
  | .none | .refused _ => afterSequencer s h

/-- The events of the cycle (10_state.md R47). -/
def cycleEvents (s : State) (h : HostWrite) : Events :=
  eventsOf s (afterDeserializer s h) (afterSequencer s h) h

/-- The clock edge of a cycle with rst = 0 and the classified host write `h` (10_state.md R40). -/
def runCycle (s : State) (h : HostWrite) : State :=
  (updateStatus s h (cycleEvents s h) (afterHost s h)).tick

/-- The clock edge of a cycle with rst = 0 and no host write that has an effect (10_state.md R42, kind `none`). -/
def quietCycle (s : State) : State := runCycle s .none

/-- The clock edge of a cycle in which the host writes the command `c`: refused with the first failing check of the
list, or accepted with its effect (30_encoding.md R112). -/
def commandCycle (s : State) (c : Instr) (checks : List (Option ErrCode)) (effect : State → State → State) : State :=
  runCycle s (acceptOrRefuse (firstFailure checks) c effect)

end Sys2Proof.Machine
end

