-- ==== Sys2Proof/Machine/Builder.lean ====
section
/-! DEFINITION. The packet builder commands (41_builder.md): each rewrites the TX packet in place, seals it, and leaves
TX_ID and the payload bytes it does not use (R150). -/

namespace Sys2Proof.Machine

open Sys2Proof

/-- The packet BUILD_READ makes: Read, payload [address, count], length 4 (41_builder.md R151). -/
def readPacket (s : State) : TxPacket :=
  TxPacket.sealed
    { s.tx with
      op := s.params.instrRead
      len := 4#8
      pay := (s.tx.pay.write 0 s.address).write 1 s.countOperand }

/-- The packet BUILD_WRITE8 makes: Write, payload [address, value], length 4 (41_builder.md R152). -/
def write8Packet (s : State) : TxPacket :=
  TxPacket.sealed
    { s.tx with
      op := s.params.instrWrite
      len := 4#8
      pay := (s.tx.pay.write 0 s.address).write 1 s.value8 }

/-- The packet BUILD_WRITE16 makes: Write, payload [address, low byte, high byte], length 5 (41_builder.md R153). -/
def write16Packet (s : State) : TxPacket :=
  TxPacket.sealed
    { s.tx with
      op := s.params.instrWrite
      len := 5#8
      pay := ((s.tx.pay.write 0 s.address).write 1 (lowByte s.value16)).write 2 (highByte s.value16) }

/-- BUILD_READ, code 0x04 (41_builder.md R151): needs idle; count > PAYLOAD_CAP is refused. -/
def execBuildRead (s : State) : Host.Outcome State Fault Refusal :=
  .next (commandCycle s .buildRead [busyCheck s, countCheck s] fun s t => { t with tx := readPacket s })

/-- BUILD_WRITE8, code 0x05 (41_builder.md R152): needs idle. -/
def execBuildWrite8 (s : State) : Host.Outcome State Fault Refusal :=
  .next (commandCycle s .buildWrite8 [busyCheck s] fun s t => { t with tx := write8Packet s })

/-- BUILD_WRITE16, code 0x06 (41_builder.md R153): needs idle. -/
def execBuildWrite16 (s : State) : Host.Outcome State Fault Refusal :=
  .next (commandCycle s .buildWrite16 [busyCheck s] fun s t => { t with tx := write16Packet s })

end Sys2Proof.Machine
end

