-- ==== Sys2Proof/Machine/Controller.lean ====
section
/-! DEFINITION. The controller's commands (43_controller.md sections 1 and 2) and the reserved codes
(30_encoding.md R114). -/

namespace Sys2Proof.Machine

open Sys2Proof

/-- The effect every send command shares (43_controller.md R220): the sealed packet, TX_IDX <- 0, MODE, SEQ <- SENDING
and the flush of the FIFO (44_circular_buffer.md R257). -/
def startSending (mode : Bool) (packet : TxPacket) (t : State) : State :=
  { t with
    tx := packet
    sqr := { t.sqr with txIdx := 0#9, mode := mode, seq := .sending }
    fifo := t.fifo.flush }

/-- RECEIVE's effect (43_controller.md R222). -/
def startReceiving (t : State) : State :=
  { t with sqr := { t.sqr with seq := .await, tmr := 0#32 }, rx := t.rx.reset }

/-- ABORT's effect (43_controller.md R223): it ends a response wait and does nothing in any other state. -/
def abortEffect (s t : State) : State :=
  if s.sqr.seq = .await then { t with sqr := { t.sqr with seq := .idle }, rx := t.rx.reset } else t

/-- NOP, code 0x00 (43_controller.md R200): no effect; never refused. -/
def execNop (s : State) : Host.Outcome State Fault Refusal := .next (commandCycle s .nop [] fun _ t => t)

/-- SEND, code 0x07 (43_controller.md R220). -/
def execSend (s : State) : Host.Outcome State Fault Refusal :=
  .next (commandCycle s .send [busyCheck s, txLenCheck s] fun s t => startSending false s.tx.sealed t)

/-- TRANSACT, code 0x08 (43_controller.md R221): as SEND, with MODE <- 1. -/
def execTransact (s : State) : Host.Outcome State Fault Refusal :=
  .next (commandCycle s .transact [busyCheck s, txLenCheck s] fun s t => startSending true s.tx.sealed t)

/-- RECEIVE, code 0x09 (43_controller.md R222). -/
def execReceive (s : State) : Host.Outcome State Fault Refusal :=
  .next (commandCycle s .receive [busyCheck s] fun _ t => startReceiving t)

/-- ABORT, code 0x0A (43_controller.md R223): never refused. -/
def execAbort (s : State) : Host.Outcome State Fault Refusal := .next (commandCycle s .abort [] abortEffect)

/-- READ_REG, code 0x0B (43_controller.md R226): BUILD_READ, then TRANSACT. -/
def execReadReg (s : State) : Host.Outcome State Fault Refusal :=
  .next (commandCycle s .readReg [busyCheck s, countCheck s] fun s t => startSending true (readPacket s) t)

/-- WRITE_REG8, code 0x0C (43_controller.md R224): BUILD_WRITE8, then SEND. -/
def execWriteReg8 (s : State) : Host.Outcome State Fault Refusal :=
  .next (commandCycle s .writeReg8 [busyCheck s] fun s t => startSending false (write8Packet s) t)

/-- WRITE_REG16, code 0x0D (43_controller.md R225): BUILD_WRITE16, then SEND. -/
def execWriteReg16 (s : State) : Host.Outcome State Fault Refusal :=
  .next (commandCycle s .writeReg16 [busyCheck s] fun s t => startSending false (write16Packet s) t)

/-- The reserved codes 0x0E to 0xFF (30_encoding.md R114): refused with ILLEGAL, before any other check (R112 (1)). -/
def execReserved (code : Byte) (s : State) : Host.Outcome State Fault Refusal :=
  .next (commandCycle s (.reserved code) [some .illegal] fun _ t => t)

end Sys2Proof.Machine
end

