-- ==== Sys2Proof/Machine/FifoCommand.lean ====
section
/-! DEFINITION. The FIFO's command, FIFO_FLUSH (44_circular_buffer.md section 4). -/

namespace Sys2Proof.Machine

open Sys2Proof

/-- FIFO_FLUSH, code 0x02 (44_circular_buffer.md R257, R258): FIFO_RD <- FIFO_WR as phase 2 left it; never refused;
RX-affecting. -/
def execFifoFlush (s : State) : Host.Outcome State Fault Refusal :=
  .next (commandCycle s .fifoFlush [] fun _ t => { t with fifo := t.fifo.flush })

end Sys2Proof.Machine
end

