-- ==== Sys2Proof/Machine/Monitor.lean ====
section
/-! DEFINITION. The deserializer's command, RX_RESET (42_monitor.md section 4). -/

namespace Sys2Proof.Machine

open Sys2Proof

/-- RX_RESET, code 0x01 (42_monitor.md R179): RxReset; never refused; RX-affecting. -/
def execRxReset (s : State) : Host.Outcome State Fault Refusal :=
  .next (commandCycle s .rxReset [] fun _ t => { t with rx := t.rx.reset })

end Sys2Proof.Machine
end

