-- ==== Sys2Proof/Machine/Packet.lean ====
section
/-! DEFINITION. SET_CHECKSUM (40_packet_checksum.md section 2). -/

namespace Sys2Proof.Machine

open Sys2Proof

/-- SET_CHECKSUM: TX_CS <- Checksum of the TX packet (R134). -/
def setChecksumEffect (s t : State) : State := { t with tx := { t.tx with cs := s.tx.checksum } }

/-- SET_CHECKSUM, code 0x03 (40_packet_checksum.md R134): needs idle, and the TX_LEN check. -/
def execSetChecksum (s : State) : Host.Outcome State Fault Refusal :=
  .next (commandCycle s .setChecksum [busyCheck s, txLenCheck s] setChecksumEffect)

end Sys2Proof.Machine
end

