-- ==== Sys2Proof/Machine/Dispatch.lean ====
section
/-! DEFINITION. Which meaning each command has. `exec i s` is the clock edge of a cycle with rst = 0 in which the host
writes the code of `i` to CMD (30_encoding.md R112; log 6). -/

namespace Sys2Proof.Machine

open Sys2Proof

def exec (i : Instr) (s : State) : Host.Outcome State Fault Refusal :=
  match i with
  | .nop => Sys2Proof.Machine.execNop s
  | .rxReset => Sys2Proof.Machine.execRxReset s
  | .fifoFlush => Sys2Proof.Machine.execFifoFlush s
  | .setChecksum => Sys2Proof.Machine.execSetChecksum s
  | .buildRead => Sys2Proof.Machine.execBuildRead s
  | .buildWrite8 => Sys2Proof.Machine.execBuildWrite8 s
  | .buildWrite16 => Sys2Proof.Machine.execBuildWrite16 s
  | .send => Sys2Proof.Machine.execSend s
  | .transact => Sys2Proof.Machine.execTransact s
  | .receive => Sys2Proof.Machine.execReceive s
  | .abort => Sys2Proof.Machine.execAbort s
  | .readReg => Sys2Proof.Machine.execReadReg s
  | .writeReg8 => Sys2Proof.Machine.execWriteReg8 s
  | .writeReg16 => Sys2Proof.Machine.execWriteReg16 s
  | .reserved code => Sys2Proof.Machine.execReserved code s

end Sys2Proof.Machine
end

