-- ==== Sys2Proof/Machine/Registers.lean ====
section
/-! DEFINITION. The host register space (20_memory.md): the map, reads, and the classification of register writes. -/

namespace Sys2Proof.Machine

open Sys2Proof

/-- The registers of the map (20_memory.md R61); `reserved` is every address the map does not list. -/
inductive Reg where
  | cmd | status | irqEn | err | seq | rxState | rxPos | fifoCount | arg0 | arg1 | arg2
  | timeout (k : Fin 4) | guard (k : Fin 4)
  | txId | txLen | txOp | txCs | rxId | rxLen | rxOp | rxCs | txIdxLo | txIdxHi
  | txPay (i : Nat) | rxPay (i : Nat) | reserved
  deriving DecidableEq, Repr

/-- The access kinds of the map (20_memory.md R61). -/
inductive Access where
  | writeOnly | w1c | readWrite | readWriteLocked | readOnly | reserved
  deriving DecidableEq, Repr

/-- The register at an address (20_memory.md R61). -/
def regAt (p : Params) (a : Addr) : Reg :=
  match a.toNat with
  | 0x000 => .cmd
  | 0x001 => .status
  | 0x002 => .irqEn
  | 0x003 => .err
  | 0x004 => .seq
  | 0x005 => .rxState
  | 0x006 => .rxPos
  | 0x007 => .fifoCount
  | 0x008 => .arg0
  | 0x009 => .arg1
  | 0x00A => .arg2
  | 0x00C => .timeout 0
  | 0x00D => .timeout 1
  | 0x00E => .timeout 2
  | 0x00F => .timeout 3
  | 0x010 => .guard 0
  | 0x011 => .guard 1
  | 0x012 => .guard 2
  | 0x013 => .guard 3
  | 0x014 => .txId
  | 0x015 => .txLen
  | 0x016 => .txOp
  | 0x017 => .txCs
  | 0x018 => .rxId
  | 0x019 => .rxLen
  | 0x01A => .rxOp
  | 0x01B => .rxCs
  | 0x01C => .txIdxLo
  | 0x01D => .txIdxHi
  | n =>
    if 0x100 ≤ n ∧ n < 0x100 + p.payloadCap then .txPay (n - 0x100)
    else if 0x200 ≤ n ∧ n < 0x200 + p.payloadCap then .rxPay (n - 0x200)
    else .reserved

/-- The access kind of a register (20_memory.md R61, R64). -/
def Reg.access : Reg → Access
  | .cmd => .writeOnly
  | .status => .w1c
  | .irqEn | .arg0 | .arg1 | .arg2 => .readWrite
  | .timeout _ | .guard _ | .txId | .txLen | .txOp | .txPay _ => .readWriteLocked
  | .err | .seq | .rxState | .rxPos | .fifoCount | .txCs | .rxId | .rxLen | .rxOp | .rxCs
  | .txIdxLo | .txIdxHi | .rxPay _ => .readOnly
  | .reserved => .reserved

/-- The value a register reads as; every bit the map does not assign is 0 (20_memory.md R62, R65 to R70). -/
def Reg.value (s : State) : Reg → Byte
  | .cmd | .reserved => 0x00#8
  | .status => s.regs.status.zeroExtend 8
  | .irqEn => s.regs.irqEn.zeroExtend 8
  | .err => s.regs.err.bits.zeroExtend 8
  | .seq => (BitVec.ofBool s.sqr.mode ++ s.sqr.seq.bits).zeroExtend 8
  | .rxState => s.rx.phase.bits.zeroExtend 8
  | .rxPos => s.rx.pos
  | .fifoCount => BitVec.ofNat 8 s.fifoCount
  | .arg0 => s.regs.arg0
  | .arg1 => s.regs.arg1
  | .arg2 => s.regs.arg2
  | .timeout k => byteOfWord s.regs.timeout k
  | .guard k => byteOfWord s.regs.guard k
  | .txId => s.tx.id
  | .txLen => s.tx.len
  | .txOp => s.tx.op
  | .txCs => s.tx.cs
  | .rxId => s.rx.id
  | .rxLen => s.rx.len
  | .rxOp => s.rx.op
  | .rxCs => s.rx.cs
  | .txIdxLo => BitVec.ofNat 8 s.sqr.txIdx.toNat
  | .txIdxHi => BitVec.ofNat 8 (s.sqr.txIdx.toNat / 256)
  | .txPay i => s.tx.pay.read i
  | .rxPay i => s.rx.pay.read i

/-- RegRead(S, a) (20_memory.md R62): a function of the pre-state, with no side effect. -/
def regRead (s : State) (a : Addr) : Byte := (regAt s.params a).value s

/-- The register takes the byte (20_memory.md R63 (c)); STATUS is cleared in phase 6, and CMD, read-only and reserved
locations hold nothing a register write stores. -/
def Reg.store (r : Reg) (v : Byte) (t : State) : State :=
  match r with
  | .irqEn => { t with regs := { t.regs with irqEn := v.truncate 5 } }
  | .arg0 => { t with regs := { t.regs with arg0 := v } }
  | .arg1 => { t with regs := { t.regs with arg1 := v } }
  | .arg2 => { t with regs := { t.regs with arg2 := v } }
  | .timeout k => { t with regs := { t.regs with timeout := setByteOfWord t.regs.timeout k v } }
  | .guard k => { t with regs := { t.regs with guard := setByteOfWord t.regs.guard k v } }
  | .txId => { t with tx := { t.tx with id := v } }
  | .txLen => { t with tx := { t.tx with len := v } }
  | .txOp => { t with tx := { t.tx with op := v } }
  | .txPay i => { t with tx := { t.tx with pay := t.tx.pay.write i v } }
  | .cmd | .status | .err | .seq | .rxState | .rxPos | .fifoCount | .txCs | .rxId | .rxLen | .rxOp | .rxCs
  | .txIdxLo | .txIdxHi | .rxPay _ | .reserved => t

/-- HostWrite for a write to a register other than CMD (10_state.md R42; 20_memory.md R63, R64): a locked register is
refused while BUSY; a read-only or reserved location is ignored. -/
def classifyWrite (s : State) (r : Reg) (v : Byte) : HostWrite :=
  match r.access with
  | .readWriteLocked => if s.busy then raiseCmdError .busy else .reg 0#5 fun _ t => r.store v t
  | .readWrite => .reg 0#5 fun _ t => r.store v t
  | .w1c => .reg (v.truncate 5) fun _ t => t
  | .writeOnly | .readOnly | .reserved => .none

/-- The host's register write of this cycle, for a cycle that writes no command (10_state.md R42). -/
def registerWrite (s : State) : HostWrite :=
  if s.input.busWe then classifyWrite s (regAt s.params s.input.busAddr) s.input.busWdata else .none

/-- bus_rdata: RegRead of the pre-state in a cycle with rst = 0 and bus_re = 1, else 0x00 (10_state.md R39). -/
def busRdata (s : State) : Byte :=
  if !s.input.rst && s.input.busRe then regRead s s.input.busAddr else 0x00#8

end Sys2Proof.Machine
end

