-- ==== Sys2Proof/Machine/Wire.lean ====
section
/-! DEFINITION. The wire frame (30_encoding.md section 1): its layout, the transmit byte function, and the reference
tables of wire opcodes and status flags, which no rule of the machine reads (R104, R105). -/

namespace Sys2Proof.Machine

open Sys2Proof

/-- The bytes of a frame in the order they are transmitted and received (30_encoding.md R100): header, header, id,
length = payload bytes + 2, opcode, payload, checksum. -/
def frameBytes (id op : Byte) (payload : List Byte) (cs : Byte) : List Byte :=
  [0xFF#8, 0xFF#8, id, BitVec.ofNat 8 (payload.length + 2), op] ++ payload ++ [cs]

/-- FrameByte(k) for the TX packet, 0 ≤ k ≤ TX_LEN + 3 (30_encoding.md R101). Outside the frame the spec gives no
byte: a free value (log 7). -/
def TxPacket.frameByte (p : TxPacket) (k : Nat) : Byte :=
  if k = 0 ∨ k = 1 then 0xFF#8
  else if k = 2 then p.id
  else if k = 3 then p.len
  else if k = 4 then p.op
  else if k ≤ p.len.toNat + 2 then p.pay.read (k - 5)
  else if k = p.len.toNat + 3 then p.cs
  else Config.freeFrameByte k

/-- The wire instruction names with their codes (30_encoding.md R104): a reference for the host. Only Write and the
Read opcode stand in the source; the others are PRESUMED (general knowledge, log 13). -/
inductive WireInstruction where
  | ping | read | write | regWrite | action | factoryReset | reboot | syncWrite | bulkRead
  deriving DecidableEq, Repr

/-- The code of a wire instruction (30_encoding.md R104; log 13). -/
def WireInstruction.code : WireInstruction → Byte
  | .ping => 0x01
  | .read => 0x02
  | .write => 0x03
  | .regWrite => 0x04
  | .action => 0x05
  | .factoryReset => 0x06
  | .reboot => 0x08
  | .syncWrite => 0x83
  | .bulkRead => 0x92

/-- The error flags of a response's status byte (30_encoding.md R105). Success is the byte 0x00. -/
inductive StatusFlag where
  | inputVoltageError | angleLimitError | overheatingError | rangeError | checksumError | overloadError
  | instructionError
  deriving DecidableEq, Repr

/-- The bit of a status flag (30_encoding.md R105; PRESUMED positions, log 13). -/
def StatusFlag.bit : StatusFlag → Nat
  | .inputVoltageError => 0
  | .angleLimitError => 1
  | .overheatingError => 2
  | .rangeError => 3
  | .checksumError => 4
  | .overloadError => 5
  | .instructionError => 6

/-- Is a flag set in a response's status byte? Several may be (30_encoding.md R105). -/
def StatusFlag.isSet (f : StatusFlag) (statusByte : Byte) : Bool := statusByte.getLsbD f.bit

end Sys2Proof.Machine
end

