-- ==== Sys2Proof/Machine/Outputs.lean ====
section
/-! DEFINITION. The output ports of a cycle, functions of the pre-state and, for bus_rdata, of the cycle's inputs
(10_state.md section 3). -/

namespace Sys2Proof.Machine

open Sys2Proof

/-- tx_valid: 1 exactly while SENDING (10_state.md R37). -/
def txValid (s : State) : Bool := decide (s.sqr.seq = .sending)

/-- tx_data: FrameByte(TX_IDX) while SENDING, else 0x00 (10_state.md R37). -/
def txData (s : State) : Byte := if s.sqr.seq = .sending then s.tx.frameByte s.sqr.txIdx.toNat else 0x00#8

/-- The byte that passes to the PHY in this cycle: tx_valid = 1 and tx_ready = 1 (10_state.md R23). With rst = 1 the
outputs are still those of the pre-state, and the PHY still takes the byte (70_reset_and_hazards.md R310). -/
def handshake (s : State) : Option Byte := if txValid s && s.input.txReady then some (txData s) else none

/-- All output ports of a cycle (10_state.md R21, R36 to R39). -/
structure Outputs where
  busRdata : Byte
  irq : Bool
  txValid : Bool
  txData : Byte
  rxEn : Bool
  deriving DecidableEq, Repr

/-- The values of the output ports in this cycle. -/
def State.outputs (s : State) : Outputs where
  busRdata := busRdata s
  irq := irq s
  txValid := txValid s
  txData := txData s
  rxEn := rxEn s

end Sys2Proof.Machine
end

