-- ==== Sys2Proof/Machine/Step.lean ====
section
/-! DEFINITION. One clock edge (10_state.md R40). -/

namespace Sys2Proof.Machine

open Sys2Proof

/-- One rising edge of clk (10_state.md R40): reset first (R41); else, when the host writes CMD, the command of the
written byte; else the cycle with the host's register write, if any (R42). -/
def step (s : State) : Host.Outcome State Fault Refusal :=
  if s.input.rst then .next (resetCycle s)
  else
    match fetchCommand s.input with
    | some b => exec (decodeByte b) s
    | none => .next (runCycle s (registerWrite s))

/-- The byte of an instruction of `nbits` bits. -/
def wordByte (nbits w : Nat) : Byte := BitVec.ofNat 8 (w % 2 ^ nbits)

/-- The drive of a cycle that writes a byte to CMD, the other pins as they were. -/
def commandDrive (i : CycleInput) (b : Byte) : CycleInput :=
  { i with rst := false, busWe := true, busAddr := 0#10, busWdata := b }

/-- `s` with the command byte on the host port in the coming cycle: ULPF fetches nothing, it takes a command from the
host's write to CMD (10_state.md R33; log 3). Where no drive is listed for that cycle, its other pins are idle. -/
def State.withFetchWord (s : State) (nbits w : Nat) : State :=
  match s.inputs with
  | [] => { s with inputs := [commandDrive {} (wordByte nbits w)] }
  | i :: rest => { s with inputs := commandDrive i (wordByte nbits w) :: rest }

end Sys2Proof.Machine
end

