-- ==== Sys2Proof/Machine/HostAsm.lean ====
section
/-! DEFINITION. The host assembly of 30_encoding.md R116, R117: one line is one cycle's drive of the host port. It is a
notation for inputs and adds nothing to the machine. -/

namespace Sys2Proof.Machine

open Sys2Proof

/-- A base line (30_encoding.md R116). -/
inductive HostLine where
  /-- `wr <reg>, <imm8>` -/
  | wr (a : Addr) (v : Byte)
  /-- `rd <reg>` -/
  | rd (a : Addr)
  /-- `nop`: no read and no write -/
  | nop
  deriving DecidableEq, Repr

/-- The encoding of a `wr` line: bus_addr then bus_wdata (30_encoding.md R116). -/
def HostLine.encoding : HostLine → Option (Addr × Byte)
  | .wr a v => some (a, v)
  | .rd _ | .nop => none

/-- The inputs of a cycle in which the host drives a line and the PHY drives the rest; the host port's other pins keep
what `phy` has on them, since the line does not say (log 15). -/
def HostLine.drive (phy : CycleInput) : HostLine → CycleInput
  | .wr a v => { phy with rst := false, busRe := false, busWe := true, busAddr := a, busWdata := v }
  | .rd a => { phy with rst := false, busRe := true, busWe := false, busAddr := a }
  | .nop => { phy with rst := false, busRe := false, busWe := false }

/-- `nop <n>` (30_encoding.md R116). -/
def nops (n : Nat) : List HostLine := List.replicate n .nop

/-- `cmd <MNEMONIC>` (30_encoding.md R117). -/
def cmdLine (i : Instr) : HostLine := .wr 0x000 i.code

/-- `wr32 TIMEOUT, v` (R117). -/
def wr32Timeout (v : Word32) : List HostLine :=
  [.wr 0x00C (byteOfWord v 0), .wr 0x00D (byteOfWord v 1), .wr 0x00E (byteOfWord v 2), .wr 0x00F (byteOfWord v 3)]

/-- `wr32 GUARD, v` (R117). -/
def wr32Guard (v : Word32) : List HostLine :=
  [.wr 0x010 (byteOfWord v 0), .wr 0x011 (byteOfWord v 1), .wr 0x012 (byteOfWord v 2), .wr 0x013 (byteOfWord v 3)]

/-- `wrpay i, v` (R117). -/
def wrpay (i : Addr) (v : Byte) : HostLine := .wr (0x100 + i) v

/-- `rdpay i` (R117). -/
def rdpay (i : Addr) : HostLine := .rd (0x200 + i)

/-- `read_reg id, a, n` (R117). -/
def readRegLines (id a n : Byte) : List HostLine :=
  [.wr 0x014 id, .wr 0x008 a, .wr 0x009 n, cmdLine .readReg]

/-- `write_reg8 id, a, v` (R117). -/
def writeReg8Lines (id a v : Byte) : List HostLine :=
  [.wr 0x014 id, .wr 0x008 a, .wr 0x009 v, cmdLine .writeReg8]

/-- `write_reg16 id, a, v` (R117): v low byte to ARG1, high byte to ARG2. -/
def writeReg16Lines (id a : Byte) (v : BitVec 16) : List HostLine :=
  [.wr 0x014 id, .wr 0x008 a, .wr 0x009 (lowByte v), .wr 0x00A (highByte v), cmdLine .writeReg16]

/-- `wrpay k, p0` … for consecutive payload bytes from index k. -/
def wrpayFrom : Nat → List Byte → List HostLine
  | _, [] => []
  | k, b :: rest => wrpay (BitVec.ofNat 10 k) b :: wrpayFrom (k + 1) rest

/-- `raw_send id, op, [p0, …]` (R117). -/
def rawSendLines (id op : Byte) (payload : List Byte) : List HostLine :=
  [.wr 0x014 id, .wr 0x016 op, .wr 0x015 (BitVec.ofNat 8 (payload.length + 2))] ++ wrpayFrom 0 payload
    ++ [cmdLine .send]

/-- `clear <mask>` (R117). -/
def clearLine (mask : Byte) : HostLine := .wr 0x001 mask

/-- One read of `poll <reg>, m, v` (R117): has the value under the mask been reached? The loop is the host's. -/
def pollDone (result m v : Byte) : Bool := decide (result &&& m = v)

end Sys2Proof.Machine
end

