-- ==== Sys2Proof/Safety.lean ====
section
/-! DEFINITION. What counts as a good state and a run of the machine, in the terms the statements use. -/

namespace Sys2Proof.Machine

open Sys2Proof

/-! ## Invariants -/

/-- The invariants I1 to I6 of 10_state.md R48. -/
structure RuleInvariants (s : State) : Prop where
  /-- I1: SEQ ∈ {SENDING, GUARD} implies Count = 0 -/
  lineQuiet : s.sqr.seq = .sending ∨ s.sqr.seq = .guard → s.fifoCount = 0
  /-- I2: SEQ = AWAIT implies RXSTATE ≠ READY -/
  awaitNotReady : s.sqr.seq = .await → s.rx.phase ≠ .ready
  /-- I3: RXSTATE = PAYLOAD implies 2 ≤ RX_LEN ≤ PAYLOAD_CAP + 2 and RX_POS < RX_LEN -/
  payloadBounded : s.rx.phase = .payload →
    2 ≤ s.rx.len.toNat ∧ s.rx.len.toNat ≤ s.params.payloadCap + 2 ∧ s.rx.pos.toNat < s.rx.len.toNat
  /-- I4: SEQ ∈ {SENDING, GUARD} implies 2 ≤ TX_LEN ≤ PAYLOAD_CAP + 2 and TX_CS = Checksum of the TX packet -/
  frameSealed : s.sqr.seq = .sending ∨ s.sqr.seq = .guard →
    2 ≤ s.tx.len.toNat ∧ s.tx.len.toNat ≤ s.params.payloadCap + 2 ∧
      s.tx.cs = checksum s.tx.id s.tx.len s.tx.op s.tx.pay
  /-- I5: SEQ = SENDING implies TX_IDX < TX_LEN + 4 -/
  indexInFrame : s.sqr.seq = .sending → s.sqr.txIdx.toNat < s.tx.len.toNat + 4
  /-- I6: Count ≤ 2*D - 1 -/
  countBounded : s.fifoCount ≤ 2 * s.params.fifoDepth - 1

/-- What the data of a state always satisfies: cursors in range (44_circular_buffer.md R256), buffers in canonical form and
inside their capacity (10_state.md R25), counters that never pass their bound while they count (10_state.md R32), RX_POS ≤
RX_LEN (R33), and a verified packet while READY (R30). -/
structure DataInvariants (s : State) : Prop where
  cursorsInRange : s.fifo.wr < 2 * s.params.fifoDepth ∧ s.fifo.rd < 2 * s.params.fifoDepth
  buffersCanonical : s.tx.pay.wf = true ∧ s.rx.pay.wf = true ∧ s.fifo.mem.wf = true
  buffersBounded : Memory.below s.params.payloadCap s.tx.pay = true ∧
    Memory.below s.params.payloadCap s.rx.pay = true ∧ Memory.below s.params.fifoDepth s.fifo.mem = true
  rxPosBounded : s.rx.pos.toNat ≤ s.rx.len.toNat
  readyVerified : s.rx.phase = .ready →
    2 ≤ s.rx.len.toNat ∧ s.rx.len.toNat ≤ s.params.payloadCap + 2 ∧ s.rx.pos = s.rx.len ∧
      s.rx.cs = checksum s.rx.id s.rx.len s.rx.op s.rx.pay
  tmrBounded : s.sqr.seq = .await → s.sqr.tmr.toNat ≤ s.regs.timeout.toNat
  gcntBounded : s.sqr.seq = .guard → s.sqr.gcnt.toNat ≤ s.regs.guard.toNat

/-- A good state. -/
structure StateInv (s : State) : Prop where
  rules : RuleInvariants s
  data : DataInvariants s

/-- The states of the runs that begin with ResetState (70_reset_and_hazards.md R314), for every legal parameter value and
every drive of the inputs. -/
inductive Reachable : State → Prop where
  | reset (p : Params) (cycle : Nat) (inputs : List CycleInput) : Reachable (State.resetWith p cycle inputs)
  | step {s t : State} : Reachable s → Machine.step s = .next t → Reachable t

/-! ## What a cycle leaves alone -/

/-- The registers only the host's own writes change (20_memory.md R71 to R73, R67, R74): the operand, TIMEOUT, GUARD and IRQ_EN
registers and TX_ID. -/
def hostRegistersKept (s t : State) : Prop :=
  t.regs.arg0 = s.regs.arg0 ∧ t.regs.arg1 = s.regs.arg1 ∧ t.regs.arg2 = s.regs.arg2 ∧
    t.regs.timeout = s.regs.timeout ∧ t.regs.guard = s.regs.guard ∧ t.regs.irqEn = s.regs.irqEn ∧ t.tx.id = s.tx.id

/-- The write side of the FIFO after a cycle: the arriving byte is stored at the write cursor's slot while rx_en = 1, and
every other slot keeps its byte (10_state.md R43; 44_circular_buffer.md R252). -/
def ingressOnly (s t : State) : Prop :=
  if s.input.rxValid = true ∧ rxEn s = true then
    t.fifo.wr = (s.fifo.wr + 1) % (2 * s.params.fifoDepth) ∧
      ∀ j, t.fifo.mem.read j =
        if j = s.fifo.wr % s.params.fifoDepth then s.input.rxData else s.fifo.mem.read j
  else t.fifo.wr = s.fifo.wr ∧ ∀ j, t.fifo.mem.read j = s.fifo.mem.read j

/-- The STATUS bits a cycle sets when its pop is suppressed and it begins outside READY or outside AWAIT: TXDONE when the
guard interval ends, TIMEOUT when the response wait times out, else none (20_memory.md R66; 43_controller.md R231, R232). -/
def guardOrTimeoutEvent (s : State) : BitVec 5 :=
  if s.sqr.seq = .guard ∧ s.sqr.gcnt = s.regs.guard then 0x04#5
  else if s.sqr.seq = .await ∧ s.sqr.tmr = s.regs.timeout then 0x02#5
  else 0x00#5

/-- The environment's part of a cycle: the parameters stay, and exactly one cycle's drive is used up. -/
def clockAdvanced (s t : State) : Prop :=
  t.params = s.params ∧ t.inputs = s.inputs.tail ∧ t.cycle = s.cycle + 1

/-- A state with a refusal recorded on it: STATUS.CMDERR set and the code in ERR, nothing else changed
(60_exceptions.md R272). -/
def withRefusal (e : ErrCode) (t : State) : State :=
  { t with regs := { t.regs with status := t.regs.status ||| 0x10#5, err := e } }

/-! ## Runs -/

/-- The state `k` cycles later. -/
def stateAfter : Nat → State → State
  | 0, s => s
  | k + 1, s =>
    match step s with
    | .next t => stateAfter k t
    | .fault _ | .refused _ => s

/-- No reset in the next `k` cycles. -/
def noReset (k : Nat) (s : State) : Prop := ∀ j < k, (stateAfter j s).input.rst = false

/-- The PHY delivers no byte in the next `k` cycles. -/
def silentLine (k : Nat) (s : State) : Prop := ∀ j < k, (stateAfter j s).input.rxValid = false

/-- The host issues no ABORT in the next `k` cycles. -/
def noAbort (k : Nat) (s : State) : Prop :=
  ∀ j < k, fetchCommand (stateAfter j s).input ≠ some (Instr.code .abort)

/-- The bytes the PHY takes in the next `k` cycles, first byte first. -/
def sentBytes : Nat → State → List Byte
  | 0, _ => []
  | k + 1, s => (handshake s).toList ++ sentBytes k (stateAfter 1 s)

/-- The first `n` bytes of a buffer. -/
def Memory.firstBytes (m : Memory) (n : Nat) : List Byte := (List.range n).map m.read

/-- The frame of the TX packet as a list of bytes (30_encoding.md R100). -/
def TxPacket.frame (p : TxPacket) : List Byte :=
  frameBytes p.id p.op (p.pay.firstBytes (p.len.toNat - 2)) p.cs

/-- The deserializer after it has consumed a list of bytes, first byte first (42_monitor.md R172). -/
def RxUnit.consumeAll (cap : Nat) (r : RxUnit) (bytes : List Byte) : RxUnit := bytes.foldl (RxUnit.consume cap) r

/-- The unread bytes of the FIFO in the order Pop returns them (44_circular_buffer.md R253, R260). -/
def Fifo.unread (d : Nat) (f : Fifo) : List Byte :=
  (List.range (f.count d)).map fun i => f.mem.read ((f.rd + i) % d)

end Sys2Proof.Machine
end

