-- ==== Sys2Proof/Certificates/Slice0/Obligations.lean ====
section
/-! DEFINITION. The statements for the provers. In every statement about a state, the parameters are the state's own
(`s.params`), so it holds for every legal parameter value, and the inputs of the cycle are `s.input`, listed or free. The
clause "the cycle with no host write" is `quietCycle`; what it does is stated by the statements of the step. -/

open Sys2Proof Sys2Proof.Machine

/-! ## Decoding and encoding -/

/-- Each command byte of the map of 30_encoding.md R110 decodes to its command, and the ends of the reserved range to
`reserved`. -/
def Obligations.CommandBytesDecode : Prop :=
  decodeTableWord 8 0x00 = some .nop ∧ decodeTableWord 8 0x01 = some .rxReset ∧
  decodeTableWord 8 0x02 = some .fifoFlush ∧ decodeTableWord 8 0x03 = some .setChecksum ∧
  decodeTableWord 8 0x04 = some .buildRead ∧ decodeTableWord 8 0x05 = some .buildWrite8 ∧
  decodeTableWord 8 0x06 = some .buildWrite16 ∧ decodeTableWord 8 0x07 = some .send ∧
  decodeTableWord 8 0x08 = some .transact ∧ decodeTableWord 8 0x09 = some .receive ∧
  decodeTableWord 8 0x0A = some .abort ∧ decodeTableWord 8 0x0B = some .readReg ∧
  decodeTableWord 8 0x0C = some .writeReg8 ∧ decodeTableWord 8 0x0D = some .writeReg16 ∧
  decodeTableWord 8 0x0E = some (.reserved 0x0E) ∧ decodeTableWord 8 0xFF = some (.reserved 0xFF)

/-- Decoding the encoding of any well-formed command gives it back and leaves the bytes after it (30_encoding.md R110,
R115). -/
def Obligations.DecodeOfEncode : Prop :=
  ∀ (i : Instr) (rest : List Byte), i.wf = true → decode (encode i ++ rest) = .ok (i, rest)

/-- Whatever decodes is well formed, is one byte long, and is its own encoding; only an empty sequence does not
decode (30_encoding.md R114, R115). -/
def Obligations.EncodeOfDecode : Prop :=
  (∀ (bytes : List Byte) (i : Instr) (rest : List Byte), decode bytes = .ok (i, rest) →
    i.wf = true ∧ (encode i).length = 1 ∧ bytes = encode i ++ rest) ∧
  ∀ bytes : List Byte, (∃ i rest, decode bytes = .ok (i, rest)) ↔ bytes ≠ []

/-! ## The step -/

/-- In a cycle with rst = 0 in which the host writes to CMD a byte that decodes to `i`, the step is `exec i`: nothing is
added around it (10_state.md R33, R40). -/
def Obligations.StepRunsTheDecodedCommand : Prop :=
  ∀ (s : State) (i : Instr), i.wf = true → s.input.rst = false → s.input.busWe = true →
    s.input.busAddr = 0x000#10 → decode [s.input.busWdata] = .ok (i, []) → step s = exec i s

/-- 10_state.md R41: with rst = 1 the next state is the reset state in every element, whatever the state and the other
inputs, and bus_rdata = 0x00 in that cycle. -/
def Obligations.ResetInputLoadsResetState : Prop :=
  ∀ s : State, s.input.rst = true →
    (∃ t, step s = .next t ∧ t.tx = State.reset.tx ∧ t.rx = State.reset.rx ∧ t.fifo = State.reset.fifo ∧
      t.sqr = State.reset.sqr ∧ t.regs = State.reset.regs) ∧
    busRdata s = 0x00#8

/-- 70_reset_and_hazards.md R311: every element of the reset state, and the outputs in it. -/
def Obligations.ResetStateValues : Prop :=
  ∀ (p : Params) (c : Nat) (l : List CycleInput),
    let s := State.resetWith p c l
    s.sqr.seq = .idle ∧ s.sqr.mode = false ∧ s.sqr.txIdx = 0#9 ∧ s.sqr.gcnt = 0#32 ∧ s.sqr.tmr = 0#32 ∧
    s.regs.timeout = 0#32 ∧ s.regs.guard = 0#32 ∧
    s.tx.id = 0x00#8 ∧ s.tx.len = 0x00#8 ∧ s.tx.op = 0x00#8 ∧ s.tx.cs = 0x00#8 ∧
    (∀ i, s.tx.pay.read i = 0x00#8) ∧
    s.rx.phase = .header1 ∧ s.rx.pos = 0#8 ∧
    s.rx.id = 0x00#8 ∧ s.rx.len = 0x00#8 ∧ s.rx.op = 0x00#8 ∧ s.rx.cs = 0x00#8 ∧
    (∀ i, s.rx.pay.read i = 0x00#8) ∧ (∀ i, s.fifo.mem.read i = 0x00#8) ∧
    s.fifo.wr = 0 ∧ s.fifo.rd = 0 ∧ s.fifoCount = 0 ∧
    s.regs.arg0 = 0x00#8 ∧ s.regs.arg1 = 0x00#8 ∧ s.regs.arg2 = 0x00#8 ∧
    s.regs.status = 0#5 ∧ s.regs.irqEn = 0#5 ∧ s.regs.err = .none ∧
    rxEn s = true ∧ txValid s = false ∧ txData s = 0x00#8 ∧ irq s = false

/-- 60_exceptions.md R292: for every state and every input value the step gives a next state. That it uses up exactly one
cycle's drive of the inputs, counts the cycle and keeps the parameters is the model's own choice (log 1, log 2, log 5). -/
def Obligations.EveryCycleHasANextState : Prop :=
  ∀ s : State, ∃ t, step s = .next t ∧ clockAdvanced s t

/-- With no host write the step is the quiet cycle (10_state.md R42). In every state the quiet cycle keeps the TX packet, the
host's registers and ERR, keeps every STATUS bit that was set, takes in the arriving byte, and keeps the sequencer and its
counters while not BUSY (10_state.md R43, R45, R47, R25). -/
def Obligations.CycleWithoutWriteKeepsHostState : Prop :=
  ∀ s : State, (s.input.rst = false → s.input.busWe = false → step s = .next (quietCycle s)) ∧
    (quietCycle s).tx = s.tx ∧ hostRegistersKept s (quietCycle s) ∧
    (quietCycle s).regs.err = s.regs.err ∧ (quietCycle s).regs.status.getLsbD 4 = s.regs.status.getLsbD 4 ∧
    (∀ i < 5, s.regs.status.getLsbD i = true → (quietCycle s).regs.status.getLsbD i = true) ∧
    (s.busy = false → (quietCycle s).sqr = s.sqr) ∧
    ingressOnly s (quietCycle s) ∧ clockAdvanced s (quietCycle s)

/-! ## The host register space -/

/-- 20_memory.md R62: RegRead of every address of the map, 0x00 elsewhere, and no read changes any state: the next state
does not depend on bus_re. 10_state.md R39: bus_rdata is RegRead of the pre-state in a read cycle with rst = 0, and 0x00 in
every other cycle. -/
def Obligations.RegisterReadsFollowTheMap : Prop :=
  (∀ s : State,
    regRead s 0x000#10 = 0x00#8 ∧ regRead s 0x001#10 = s.regs.status.zeroExtend 8 ∧
    regRead s 0x002#10 = s.regs.irqEn.zeroExtend 8 ∧ regRead s 0x003#10 = s.regs.err.bits.zeroExtend 8 ∧
    (regRead s 0x004#10).toNat = (if s.sqr.mode then 8 else 0) + s.sqr.seq.bits.toNat ∧
    regRead s 0x005#10 = s.rx.phase.bits.zeroExtend 8 ∧ regRead s 0x006#10 = s.rx.pos ∧
    (regRead s 0x007#10).toNat = s.fifoCount ∧
    regRead s 0x008#10 = s.regs.arg0 ∧ regRead s 0x009#10 = s.regs.arg1 ∧ regRead s 0x00A#10 = s.regs.arg2 ∧
    regRead s 0x00B#10 = 0x00#8 ∧
    (∀ k < 4, regRead s (BitVec.ofNat 10 (0x00C + k)) = s.regs.timeout.extractLsb' (8 * k) 8) ∧
    (∀ k < 4, regRead s (BitVec.ofNat 10 (0x010 + k)) = s.regs.guard.extractLsb' (8 * k) 8) ∧
    regRead s 0x014#10 = s.tx.id ∧ regRead s 0x015#10 = s.tx.len ∧ regRead s 0x016#10 = s.tx.op ∧
    regRead s 0x017#10 = s.tx.cs ∧ regRead s 0x018#10 = s.rx.id ∧ regRead s 0x019#10 = s.rx.len ∧
    regRead s 0x01A#10 = s.rx.op ∧ regRead s 0x01B#10 = s.rx.cs ∧
    regRead s 0x01C#10 = s.sqr.txIdx.extractLsb' 0 8 ∧
    (regRead s 0x01D#10).toNat = (if s.sqr.txIdx.getLsbD 8 then 1 else 0) ∧
    (∀ a : Addr, 0x01E ≤ a.toNat → a.toNat ≤ 0x0FF → regRead s a = 0x00#8) ∧
    (∀ i < s.params.payloadCap, regRead s (BitVec.ofNat 10 (0x100 + i)) = s.tx.pay.read i) ∧
    (∀ a : Addr, 0x100 + s.params.payloadCap ≤ a.toNat → a.toNat ≤ 0x1FF → regRead s a = 0x00#8) ∧
    (∀ i < s.params.payloadCap, regRead s (BitVec.ofNat 10 (0x200 + i)) = s.rx.pay.read i) ∧
    (∀ a : Addr, 0x200 + s.params.payloadCap ≤ a.toNat → regRead s a = 0x00#8)) ∧
  (∀ s : State, busRdata s =
    if s.input.rst = false ∧ s.input.busRe = true then regRead s s.input.busAddr else 0x00#8) ∧
  ∀ (s : State) (i : CycleInput) (rest : List CycleInput) (re : Bool), s.inputs = i :: rest →
    ∀ t, step s = .next t → step { s with inputs := { i with busRe := re } :: rest } = .next t

/-- 20_memory.md R63 (d): a write to a read-only or reserved address is ignored: the cycle is the one with no host
write. -/
def Obligations.ReadOnlyAndReservedWritesIgnored : Prop :=
  ∀ s : State, s.input.rst = false → s.input.busWe = true →
    (0x003 ≤ s.input.busAddr.toNat ∧ s.input.busAddr.toNat ≤ 0x007 ∨ s.input.busAddr.toNat = 0x00B ∨
      0x017 ≤ s.input.busAddr.toNat ∧ s.input.busAddr.toNat ≤ 0x0FF ∨
      0x100 + s.params.payloadCap ≤ s.input.busAddr.toNat) →
    step s = .next (quietCycle s)

/-- 20_memory.md R63 (c), R67, R71 to R74, R76: an accepted write to a plain register or to a locked register while not
BUSY is read back at its address in the next cycle (only bits 4:0 of IRQ_EN), every other such address reads as before, and
everything else is as in the cycle with no host write. -/
def Obligations.RegisterWriteReadsBack : Prop :=
  ∀ s : State, s.input.rst = false → s.input.busWe = true →
    ∀ plain : Nat → Prop,
      (∀ n, plain n ↔ n = 0x002 ∨ 0x008 ≤ n ∧ n ≤ 0x00A ∨ 0x00C ≤ n ∧ n ≤ 0x016 ∨
        0x100 ≤ n ∧ n < 0x100 + s.params.payloadCap) →
      plain s.input.busAddr.toNat → (s.busy = true → s.input.busAddr.toNat ≤ 0x00A) →
      ∃ t, step s = .next t ∧
        regRead t s.input.busAddr =
          (if s.input.busAddr.toNat = 0x002 then s.input.busWdata &&& 0x1F#8 else s.input.busWdata) ∧
        (∀ a : Addr, plain a.toNat → a ≠ s.input.busAddr → regRead t a = regRead s a) ∧
        t.tx.cs = s.tx.cs ∧ t.rx = (quietCycle s).rx ∧ t.fifo = (quietCycle s).fifo ∧
        t.sqr = (quietCycle s).sqr ∧ t.regs.status = (quietCycle s).regs.status ∧ t.regs.err = s.regs.err ∧
        clockAdvanced s t

/-- 60_exceptions.md R275: what BUSY is, what it refuses, and what is never refused. "Not refused" says that the write
sets no CMDERR and gives ERR no code. -/
def Obligations.BusyRefusals : Prop :=
  (∀ s : State, s.busy = true ↔ s.sqr.seq = .sending ∨ s.sqr.seq = .guard ∨ s.sqr.seq = .await) ∧
  (∀ s : State, s.busy = true → ∀ i ∈ [Instr.setChecksum, .buildRead, .buildWrite8, .buildWrite16, .send, .transact,
      .receive, .readReg, .writeReg8, .writeReg16],
    exec i s = .next (withRefusal .busy (quietCycle s))) ∧
  (∀ s : State, s.busy = true → s.input.rst = false → s.input.busWe = true →
    (0x00C ≤ s.input.busAddr.toNat ∧ s.input.busAddr.toNat ≤ 0x016 ∨
      0x100 ≤ s.input.busAddr.toNat ∧ s.input.busAddr.toNat < 0x100 + s.params.payloadCap) →
    step s = .next (withRefusal .busy (quietCycle s))) ∧
  (∀ s : State, ∀ i ∈ [Instr.nop, .rxReset, .fifoFlush, .abort], ∃ t, exec i s = .next t ∧
    t.regs.err = s.regs.err ∧ t.regs.status.getLsbD 4 = s.regs.status.getLsbD 4) ∧
  ∀ s : State, s.input.rst = false → s.input.busWe = true →
    (s.input.busAddr.toNat = 0x001 ∨ s.input.busAddr.toNat = 0x002 ∨
      0x008 ≤ s.input.busAddr.toNat ∧ s.input.busAddr.toNat ≤ 0x00A) →
    ∃ t, step s = .next t ∧ (t.regs.err = s.regs.err ∨ t.regs.err = .none) ∧
      (t.regs.status.getLsbD 4 = true → s.regs.status.getLsbD 4 = true)

/-- 10_state.md R47 for a host write to STATUS: each bit written 1 is cleared unless its event occurs in the cycle, each
bit written 0 keeps its value or takes its event, and ERR is cleared exactly with bit 4; nothing else differs from the cycle
with no host write. -/
def Obligations.StatusWriteClearsWrittenBits : Prop :=
  ∀ s : State, s.input.rst = false → s.input.busWe = true → s.input.busAddr = 0x001#10 →
    ∃ t, step s = .next t ∧
      (∀ i < 5, t.regs.status.getLsbD i =
        ((s.regs.status.getLsbD i && !s.input.busWdata.getLsbD i) || (cycleEvents s .none).bits.getLsbD i)) ∧
      t.regs.err = (if s.input.busWdata.getLsbD 4 then .none else s.regs.err) ∧
      t = { quietCycle s with
            regs := { (quietCycle s).regs with status := t.regs.status, err := t.regs.err } }

/-- 10_state.md R47, 20_memory.md R66. For every classified host write `h` of a cycle, each STATUS bit is afterwards 1 exactly
when it was 1 and is not cleared, or its event occurs, the event being exactly the listed move of phase 3 or 4 or the refusal;
and ERR follows the refusal or the clear. Every step with rst = 0 is such a cycle, with the W1C mask of its STATUS write and 0
otherwise, and so is every command. Last, the same for a step in terms of its two states alone; there the premise of the
RXRDY clause is the invariant I1 of 10_state.md R48. -/
def Obligations.EventsSetStatusBits : Prop :=
  (∀ (s : State) (h : HostWrite),
    let u := afterDeserializer s h
    let v := afterSequencer s h
    let t := runCycle s h
    let kept (i : Nat) : Prop := s.regs.status.getLsbD i = true ∧ h.w1cMask.getLsbD i = false
    (t.regs.status.getLsbD 0 = true ↔ kept 0 ∨ s.sqr.seq ≠ .complete ∧ v.sqr.seq = .complete) ∧
    (t.regs.status.getLsbD 1 = true ↔ kept 1 ∨ s.sqr.seq ≠ .timedOut ∧ v.sqr.seq = .timedOut) ∧
    (t.regs.status.getLsbD 2 = true ↔ kept 2 ∨ s.sqr.seq = .guard ∧ v.sqr.seq ≠ .guard) ∧
    (t.regs.status.getLsbD 3 = true ↔ kept 3 ∨ s.rx.phase ≠ .ready ∧ u.rx.phase = .ready) ∧
    (t.regs.status.getLsbD 4 = true ↔ kept 4 ∨ ∃ e, h = .refused e) ∧
    (∀ e, h = .refused e → t.regs.err = e) ∧
    ((∀ e, h ≠ .refused e) → t.regs.err = if h.w1cMask.getLsbD 4 then .none else s.regs.err)) ∧
  (∀ s t : State, s.input.rst = false → step s = .next t → ∃ h, t = runCycle s h ∧
    h.w1cMask = if s.input.busWe = true ∧ s.input.busAddr = 0x001#10 then s.input.busWdata.extractLsb' 0 5 else 0#5) ∧
  (∀ (i : Instr) (s t : State), exec i s = .next t → ∃ h, t = runCycle s h ∧ h.w1cMask = 0#5) ∧
  ∀ s t : State, s.input.rst = false → step s = .next t →
    let kept (i : Nat) : Prop := s.regs.status.getLsbD i = true ∧
      ¬(s.input.busWe = true ∧ s.input.busAddr = 0x001#10 ∧ s.input.busWdata.getLsbD i = true)
    (t.regs.status.getLsbD 0 = true ↔ kept 0 ∨ s.sqr.seq ≠ .complete ∧ t.sqr.seq = .complete) ∧
    (t.regs.status.getLsbD 1 = true ↔ kept 1 ∨ s.sqr.seq ≠ .timedOut ∧ t.sqr.seq = .timedOut) ∧
    (t.regs.status.getLsbD 2 = true ↔ kept 2 ∨ s.sqr.seq = .guard ∧ t.sqr.seq ≠ .guard) ∧
    ((s.sqr.seq = .guard → s.fifoCount = 0) →
      (t.regs.status.getLsbD 3 = true ↔ kept 3 ∨ s.rx.phase ≠ .ready ∧ t.rx.phase = .ready))

/-- 10_state.md R36, R37, R38: the outputs that are functions of the registered state only. -/
def Obligations.OutputsOfTheState : Prop :=
  ∀ s : State,
    (rxEn s = false ↔ s.sqr.seq = .sending ∨ s.sqr.seq = .guard) ∧
    (txValid s = true ↔ s.sqr.seq = .sending) ∧
    txData s = (if s.sqr.seq = .sending then s.tx.frameByte s.sqr.txIdx.toNat else 0x00#8) ∧
    (irq s = true ↔ ∃ i < 5, s.regs.status.getLsbD i = true ∧ s.regs.irqEn.getLsbD i = true) ∧
    ∀ l c, rxEn { s with inputs := l, cycle := c } = rxEn s ∧ txValid { s with inputs := l, cycle := c } = txValid s ∧
      txData { s with inputs := l, cycle := c } = txData s ∧ irq { s with inputs := l, cycle := c } = irq s

/-! ## The checksum unit -/

/-- 40_packet_checksum.md R130: the complement of the sum of id, len, op and the first len - 2 payload bytes modulo 256,
computed here with unbounded numbers. -/
def Obligations.ChecksumIsComplementedSum : Prop :=
  ∀ (p : Params) (id len op : Byte) (pay : Memory), 2 ≤ len.toNat → len.toNat ≤ p.payloadCap + 2 →
    (checksum id len op pay).toNat =
      255 - (id.toNat + len.toNat + op.toNat + ((List.range (len.toNat - 2)).map fun i => (pay.read i).toNat).sum) % 256

/-- 40_packet_checksum.md R131: payload storage from index len - 2 on is not covered. -/
def Obligations.ChecksumIgnoresBytesBeyondPayload : Prop :=
  ∀ (id len op : Byte) (pay : Memory) (i : Nat) (b : Byte), len.toNat - 2 ≤ i →
    checksum id len op (pay.write i b) = checksum id len op pay

/-- 40_packet_checksum.md R137 (a): a packet is valid exactly when all its covered bytes and its checksum sum to 0xFF
modulo 256. -/
def Obligations.PacketValidIffSumIsFF : Prop :=
  ∀ (id len op cs : Byte) (pay : Memory), 2 ≤ len.toNat →
    (verify id len op pay cs = true ↔
      (id.toNat + len.toNat + op.toNat + ((List.range (len.toNat - 2)).map fun i => (pay.read i).toNat).sum
        + cs.toNat) % 256 = 0xFF)

/-- 40_packet_checksum.md R137 (b), for a fixed length byte: changing the id, the opcode, one covered payload byte or the
checksum byte of a valid packet makes it invalid. (A change of the length byte also changes which bytes are covered, so it
is left out.) -/
def Obligations.SingleByteChangeIsDetected : Prop :=
  ∀ (id len op cs b : Byte) (pay : Memory), verify id len op pay cs = true →
    (b ≠ id → verify b len op pay cs = false) ∧ (b ≠ op → verify id len b pay cs = false) ∧
    (b ≠ cs → verify id len op pay b = false) ∧
    ∀ i, i + 2 < len.toNat → b ≠ pay.read i → verify id len op (pay.write i b) cs = false

/-! ## The commands: each completes, with its effect and what it leaves alone -/

/-- 43_controller.md R200: NOP is the cycle with no host write, in every state. -/
def Obligations.NopIsACycleWithoutWrite : Prop :=
  decode [0x00#8] = .ok (.nop, []) ∧
  ∀ s : State, exec .nop s = .next (quietCycle s) ∧
    (s.input.rst = false → s.input.busWe = true → s.input.busAddr = 0x000#10 → s.input.busWdata = 0x00#8 →
      step s = .next (quietCycle s)) ∧
    (s.input.rst = false → s.input.busWe = false → step s = .next (quietCycle s))

/-- 42_monitor.md R179: RX_RESET, in every state. It changes no STATUS bit itself: STATUS gains exactly the event of a guard
end or of a timeout of its cycle, and no other register changes. The premise of that clause is the invariant I2 of
10_state.md R48. -/
def Obligations.RxResetCommand : Prop :=
  ∀ s : State, ∃ t, exec .rxReset s = .next t ∧
    t.rx = { s.rx with phase := .header1, pos := 0#8 } ∧ t.fifo.rd = s.fifo.rd ∧ ingressOnly s t ∧
    t.tx = s.tx ∧ hostRegistersKept s t ∧ t.regs.err = s.regs.err ∧
    (∀ i ∈ [3, 4], t.regs.status.getLsbD i = s.regs.status.getLsbD i) ∧
    ((s.sqr.seq = .await → s.rx.phase ≠ .ready) →
      t.regs = { s.regs with status := s.regs.status ||| guardOrTimeoutEvent s }) ∧
    (s.sqr.seq ≠ .await → t.sqr = (quietCycle s).sqr) ∧
    (s.sqr.seq = .await → s.rx.phase ≠ .ready →
      t.sqr = if s.sqr.tmr = s.regs.timeout then { s.sqr with seq := .timedOut }
        else { s.sqr with tmr := s.sqr.tmr + 1#32 }) ∧
    clockAdvanced s t

/-- 44_circular_buffer.md R258: FIFO_FLUSH, in every state: the FIFO is empty after it, a byte received in its cycle
included, and it does not reset the deserializer: only a guard end with MODE = 1 or a timeout of its cycle does. STATUS gains
exactly the event of a guard end or of a timeout, and no other register changes. The premises on READY are the invariant I2
of 10_state.md R48. -/
def Obligations.FifoFlushCommand : Prop :=
  ∀ s : State, ∃ t, exec .fifoFlush s = .next t ∧
    t.fifo.rd = t.fifo.wr ∧ t.fifoCount = 0 ∧ ingressOnly s t ∧
    t.tx = s.tx ∧ hostRegistersKept s t ∧ t.regs.err = s.regs.err ∧
    ((s.sqr.seq = .await → s.rx.phase ≠ .ready) →
      t.regs = { s.regs with status := s.regs.status ||| guardOrTimeoutEvent s }) ∧
    (s.sqr.seq ≠ .await → t.sqr = (quietCycle s).sqr) ∧
    (s.sqr.seq ≠ .await → s.sqr.seq ≠ .guard → t.rx = s.rx) ∧
    (s.sqr.seq = .guard → t.rx = if s.sqr.gcnt = s.regs.guard ∧ s.sqr.mode = true then
      { s.rx with phase := .header1, pos := 0#8 } else s.rx) ∧
    (s.sqr.seq = .await → s.rx.phase ≠ .ready →
      (s.sqr.tmr ≠ s.regs.timeout → t.rx = s.rx ∧ t.sqr = { s.sqr with tmr := s.sqr.tmr + 1#32 }) ∧
      (s.sqr.tmr = s.regs.timeout →
        t.rx = { s.rx with phase := .header1, pos := 0#8 } ∧ t.sqr = { s.sqr with seq := .timedOut })) ∧
    clockAdvanced s t

/-- 40_packet_checksum.md R134: an accepted SET_CHECKSUM writes TX_CS with the checksum of the TX packet, and nothing
else. -/
def Obligations.SetChecksumAccepted : Prop :=
  ∀ s : State, s.busy = false → 2 ≤ s.tx.len.toNat → s.tx.len.toNat ≤ s.params.payloadCap + 2 →
    exec .setChecksum s =
      .next { quietCycle s with tx := { s.tx with cs := checksum s.tx.id s.tx.len s.tx.op s.tx.pay } }

/-- 41_builder.md R151: an accepted BUILD_READ. -/
def Obligations.BuildReadAccepted : Prop :=
  ∀ s : State, s.busy = false → s.regs.arg1.toNat ≤ s.params.payloadCap →
    ∃ p : TxPacket, exec .buildRead s = .next { quietCycle s with tx := p } ∧
      p.id = s.tx.id ∧ p.len = 4#8 ∧ p.op = s.params.instrRead ∧
      p.cs = ~~~(s.tx.id + 4#8 + s.params.instrRead + s.regs.arg0 + s.regs.arg1) ∧
      p.pay.read 0 = s.regs.arg0 ∧ p.pay.read 1 = s.regs.arg1 ∧ ∀ i ≥ 2, p.pay.read i = s.tx.pay.read i

/-- 41_builder.md R152: an accepted BUILD_WRITE8. -/
def Obligations.BuildWrite8Accepted : Prop :=
  ∀ s : State, s.busy = false →
    ∃ p : TxPacket, exec .buildWrite8 s = .next { quietCycle s with tx := p } ∧
      p.id = s.tx.id ∧ p.len = 4#8 ∧ p.op = s.params.instrWrite ∧
      p.cs = ~~~(s.tx.id + 4#8 + s.params.instrWrite + s.regs.arg0 + s.regs.arg1) ∧
      p.pay.read 0 = s.regs.arg0 ∧ p.pay.read 1 = s.regs.arg1 ∧ ∀ i ≥ 2, p.pay.read i = s.tx.pay.read i

/-- 41_builder.md R153: an accepted BUILD_WRITE16: ARG1 is the low byte and goes first. -/
def Obligations.BuildWrite16Accepted : Prop :=
  ∀ s : State, s.busy = false →
    ∃ p : TxPacket, exec .buildWrite16 s = .next { quietCycle s with tx := p } ∧
      p.id = s.tx.id ∧ p.len = 5#8 ∧ p.op = s.params.instrWrite ∧
      p.cs = ~~~(s.tx.id + 5#8 + s.params.instrWrite + s.regs.arg0 + s.regs.arg1 + s.regs.arg2) ∧
      p.pay.read 0 = s.regs.arg0 ∧ p.pay.read 1 = s.regs.arg1 ∧ p.pay.read 2 = s.regs.arg2 ∧
      ∀ i ≥ 3, p.pay.read i = s.tx.pay.read i

/-- 43_controller.md R220, R221: an accepted SEND or TRANSACT seals the TX packet, starts SENDING at the first frame byte,
records MODE, and flushes the FIFO; the receive unit and every register keep their values. -/
def Obligations.SendAndTransactAccepted : Prop :=
  ∀ s : State, s.busy = false → 2 ≤ s.tx.len.toNat → s.tx.len.toNat ≤ s.params.payloadCap + 2 →
    ∀ c ∈ [(Instr.send, false), (Instr.transact, true)], ∃ t, exec c.1 s = .next t ∧
      t.tx = { s.tx with cs := checksum s.tx.id s.tx.len s.tx.op s.tx.pay } ∧
      t.sqr = { s.sqr with seq := .sending, txIdx := 0#9, mode := c.2 } ∧
      t.rx = s.rx ∧ t.regs = s.regs ∧ t.fifo.rd = t.fifo.wr ∧ t.fifoCount = 0 ∧ ingressOnly s t ∧ clockAdvanced s t

/-- 43_controller.md R222: an accepted RECEIVE starts a response wait with a fresh deserializer; the FIFO is not
flushed. -/
def Obligations.ReceiveAccepted : Prop :=
  ∀ s : State, s.busy = false → ∃ t, exec .receive s = .next t ∧
    t.sqr = { s.sqr with seq := .await, tmr := 0#32 } ∧ t.rx = { s.rx with phase := .header1, pos := 0#8 } ∧
    t.tx = s.tx ∧ t.regs = s.regs ∧ t.fifo.rd = s.fifo.rd ∧ ingressOnly s t ∧ clockAdvanced s t

/-- 43_controller.md R223: ABORT ends a response wait, wins over a completion and a timeout of its cycle and sets no
STATUS bit; in every other state it has no effect. -/
def Obligations.AbortCommand : Prop :=
  ∀ s : State,
    (s.sqr.seq = .await → ∃ t, exec .abort s = .next t ∧ t.sqr = { s.sqr with seq := .idle } ∧
      t.rx = { s.rx with phase := .header1, pos := 0#8 } ∧ t.tx = s.tx ∧ t.regs = s.regs ∧
      t.fifo.rd = s.fifo.rd ∧ ingressOnly s t ∧ clockAdvanced s t) ∧
    (s.sqr.seq ≠ .await → exec .abort s = .next (quietCycle s))

/-- 43_controller.md R224, R225, R226: the accepted composite commands build their packet and start SENDING. -/
def Obligations.CompositeCommandsAccepted : Prop :=
  ∀ s : State, s.busy = false →
    let started (t : State) (mode : Bool) : Prop :=
      t.tx.id = s.tx.id ∧ t.sqr = { s.sqr with seq := .sending, txIdx := 0#9, mode := mode } ∧ t.rx = s.rx ∧
      t.regs = s.regs ∧ t.fifo.rd = t.fifo.wr ∧ t.fifoCount = 0 ∧ ingressOnly s t ∧ clockAdvanced s t ∧
      t.tx.pay.read 0 = s.regs.arg0 ∧ t.tx.pay.read 1 = s.regs.arg1 ∧ ∀ i ≥ 3, t.tx.pay.read i = s.tx.pay.read i
    (s.regs.arg1.toNat ≤ s.params.payloadCap → ∃ t, exec .readReg s = .next t ∧ started t true ∧
      t.tx.len = 4#8 ∧ t.tx.op = s.params.instrRead ∧ t.tx.pay.read 2 = s.tx.pay.read 2 ∧
      t.tx.cs = ~~~(s.tx.id + 4#8 + s.params.instrRead + s.regs.arg0 + s.regs.arg1)) ∧
    (∃ t, exec .writeReg8 s = .next t ∧ started t false ∧
      t.tx.len = 4#8 ∧ t.tx.op = s.params.instrWrite ∧ t.tx.pay.read 2 = s.tx.pay.read 2 ∧
      t.tx.cs = ~~~(s.tx.id + 4#8 + s.params.instrWrite + s.regs.arg0 + s.regs.arg1)) ∧
    (∃ t, exec .writeReg16 s = .next t ∧ started t false ∧
      t.tx.len = 5#8 ∧ t.tx.op = s.params.instrWrite ∧ t.tx.pay.read 2 = s.regs.arg2 ∧
      t.tx.cs = ~~~(s.tx.id + 5#8 + s.params.instrWrite + s.regs.arg0 + s.regs.arg1 + s.regs.arg2))

/-- 30_encoding.md R114: a reserved code is refused with ILLEGAL in every state, BUSY or not, and has no other effect. -/
def Obligations.ReservedCodesRefusedAsIllegal : Prop :=
  ∀ (code : Byte) (s : State), 0x0E ≤ code.toNat →
    exec (decodeByte code) s = .next (withRefusal .illegal (quietCycle s))

/-- 60_exceptions.md R274 and 30_encoding.md R112, R113: the operand refusals of the commands when not BUSY. -/
def Obligations.OperandRefusals : Prop :=
  ∀ s : State, s.busy = false →
    (s.params.payloadCap < s.regs.arg1.toNat → ∀ i ∈ [Instr.buildRead, .readReg],
      exec i s = .next (withRefusal .payloadOverflow (quietCycle s))) ∧
    (s.params.payloadCap + 2 < s.tx.len.toNat → ∀ i ∈ [Instr.setChecksum, .send, .transact],
      exec i s = .next (withRefusal .payloadOverflow (quietCycle s))) ∧
    (s.tx.len.toNat < 2 → ∀ i ∈ [Instr.setChecksum, .send, .transact],
      exec i s = .next (withRefusal .badLength (quietCycle s)))

/-- 20_memory.md R67, R71 to R74: no command changes an operand register, TIMEOUT, GUARD, IRQ_EN or TX_ID, in any
state. -/
def Obligations.CommandsKeepHostRegisters : Prop :=
  ∀ (i : Instr) (s t : State), exec i s = .next t → hostRegistersKept s t ∧ clockAdvanced s t ∧ ingressOnly s t

/-! ## The sequencer -/

/-- 43_controller.md R230: a SENDING cycle, whatever the host does. -/
def Obligations.SendingStep : Prop :=
  ∀ s : State, s.sqr.seq = .sending →
    txValid s = true ∧ txData s = s.tx.frameByte s.sqr.txIdx.toNat ∧
    (s.input.rst = false → ∃ t, step s = .next t ∧
      (s.input.txReady = false → handshake s = none ∧ t.sqr = s.sqr ∧ txValid t = true ∧ txData t = txData s) ∧
      (s.input.txReady = true → handshake s = some (s.tx.frameByte s.sqr.txIdx.toNat) ∧
        (s.sqr.txIdx.toNat = s.tx.len.toNat + 3 →
          t.sqr = { s.sqr with txIdx := s.sqr.txIdx + 1#9, seq := .guard, gcnt := 0#32 }) ∧
        (s.sqr.txIdx.toNat ≠ s.tx.len.toNat + 3 → t.sqr = { s.sqr with txIdx := s.sqr.txIdx + 1#9 })))

/-- 43_controller.md R231: a GUARD cycle, whatever the host does. -/
def Obligations.GuardStep : Prop :=
  ∀ s : State, s.input.rst = false → s.sqr.seq = .guard → ∃ t, step s = .next t ∧ rxEn s = false ∧
    (s.sqr.gcnt ≠ s.regs.guard → t.sqr = { s.sqr with gcnt := s.sqr.gcnt + 1#32 }) ∧
    (s.sqr.gcnt = s.regs.guard → t.regs.status.getLsbD 2 = true ∧
      (s.sqr.mode = false → t.sqr = { s.sqr with seq := .idle }) ∧
      (s.sqr.mode = true → t.sqr = { s.sqr with seq := .await, tmr := 0#32 } ∧
        t.rx.phase = .header1 ∧ t.rx.pos = 0#8))

/-- 43_controller.md R232: an AWAIT cycle without an ABORT, whatever else the host does: completion when the deserializer
reaches READY in the cycle, else timeout when TMR has reached TIMEOUT, else TMR counts. The hypothesis on RXSTATE is the
invariant I2 of 10_state.md R48. -/
def Obligations.AwaitStep : Prop :=
  ∀ s : State, s.input.rst = false → s.sqr.seq = .await → s.rx.phase ≠ .ready →
    fetchCommand s.input ≠ some 0x0A#8 → ∃ t, step s = .next t ∧
      (t.rx.phase = .ready → t.sqr = { s.sqr with seq := .complete } ∧
        t.regs.status.getLsbD 0 = true ∧ t.regs.status.getLsbD 3 = true) ∧
      (t.rx.phase ≠ .ready → s.sqr.tmr = s.regs.timeout → t.sqr = { s.sqr with seq := .timedOut } ∧
        t.regs.status.getLsbD 1 = true ∧ t.rx.phase = .header1 ∧ t.rx.pos = 0#8) ∧
      (t.rx.phase ≠ .ready → s.sqr.tmr ≠ s.regs.timeout → t.sqr = { s.sqr with tmr := s.sqr.tmr + 1#32 })

/-- 43_controller.md R233: the transitions of SEQ with their causes are all of them. The hypothesis is the invariant I2 of
10_state.md R48. -/
def Obligations.SequencerTransitionsAreAll : Prop :=
  ∀ s t : State, (s.sqr.seq = .await → s.rx.phase ≠ .ready) → step s = .next t →
    let cmd := fetchCommand s.input
    (s.input.rst = true ∧ t.sqr.seq = .idle) ∨
    (s.input.rst = false ∧
      (t.sqr.seq = s.sqr.seq ∨
      (s.busy = false ∧ t.sqr.seq = .sending ∧
        cmd ∈ [some 0x07#8, some 0x08#8, some 0x0B#8, some 0x0C#8, some 0x0D#8]) ∨
      (s.busy = false ∧ t.sqr.seq = .await ∧ cmd = some 0x09#8) ∨
      (s.sqr.seq = .sending ∧ t.sqr.seq = .guard ∧ s.input.txReady = true ∧
        s.sqr.txIdx.toNat = s.tx.len.toNat + 3) ∨
      (s.sqr.seq = .guard ∧ t.sqr.seq = .idle ∧ s.sqr.gcnt = s.regs.guard ∧ s.sqr.mode = false) ∨
      (s.sqr.seq = .guard ∧ t.sqr.seq = .await ∧ s.sqr.gcnt = s.regs.guard ∧ s.sqr.mode = true) ∨
      (s.sqr.seq = .await ∧ t.sqr.seq = .complete ∧ t.rx.phase = .ready) ∨
      (s.sqr.seq = .await ∧ t.sqr.seq = .timedOut ∧ s.sqr.tmr = s.regs.timeout ∧ t.rx.phase ≠ .ready) ∨
      (s.sqr.seq = .await ∧ t.sqr.seq = .idle ∧ cmd = some 0x0A#8)))

/-- 20_memory.md R64, R85: while BUSY no step but a reset changes the TX packet, TIMEOUT or GUARD. -/
def Obligations.TxPacketFrozenWhileBusy : Prop :=
  ∀ s : State, s.input.rst = false → s.busy = true → ∃ t, step s = .next t ∧
    t.tx = s.tx ∧ t.regs.timeout = s.regs.timeout ∧ t.regs.guard = s.regs.guard

/-- 10_state.md R43: in SENDING and GUARD an offered byte is dropped: the FIFO's write side does not change. -/
def Obligations.BytesDroppedWhileTransmitting : Prop :=
  ∀ s : State, s.input.rst = false → s.sqr.seq = .sending ∨ s.sqr.seq = .guard → ∃ t, step s = .next t ∧
    t.fifo.mem = s.fifo.mem ∧ t.fifo.wr = s.fifo.wr

/-- 43_controller.md R231: the guard interval lasts exactly GUARD + 1 cycles, whatever the inputs but reset. -/
def Obligations.GuardLastsGuardPlusOneCycles : Prop :=
  ∀ s : State, s.sqr.seq = .guard → s.sqr.gcnt = 0#32 → noReset (s.regs.guard.toNat + 1) s →
    (∀ k ≤ s.regs.guard.toNat, (stateAfter k s).sqr.seq = .guard ∧ rxEn (stateAfter k s) = false) ∧
    (stateAfter (s.regs.guard.toNat + 1) s).sqr.seq = (if s.sqr.mode then .await else .idle) ∧
    (stateAfter (s.regs.guard.toNat + 1) s).regs.status.getLsbD 2 = true

/-- 60_exceptions.md R293, 43_controller.md R234: AWAIT ends within TIMEOUT + 1 cycles, whatever the inputs but reset. -/
def Obligations.AwaitEndsWithinTimeoutPlusOne : Prop :=
  ∀ s : State, s.sqr.seq = .await → s.sqr.tmr = 0#32 → noReset (s.regs.timeout.toNat + 1) s →
    ∃ k ≤ s.regs.timeout.toNat + 1, (stateAfter k s).sqr.seq ≠ .await

/-- 43_controller.md R235: against a PHY that delivers no byte, with the FIFO empty, a response wait stays in AWAIT for
exactly TIMEOUT + 1 cycles and then is TIMEDOUT. -/
def Obligations.SilentLineTimesOutExactly : Prop :=
  ∀ s : State, s.sqr.seq = .await → s.sqr.tmr = 0#32 → s.fifoCount = 0 → s.rx.phase ≠ .ready →
    noReset (s.regs.timeout.toNat + 1) s → silentLine (s.regs.timeout.toNat + 1) s →
    noAbort (s.regs.timeout.toNat + 1) s →
    (∀ k ≤ s.regs.timeout.toNat, (stateAfter k s).sqr.seq = .await ∧ (stateAfter k s).sqr.tmr.toNat = k) ∧
    (stateAfter (s.regs.timeout.toNat + 1) s).sqr.seq = .timedOut ∧
    (stateAfter (s.regs.timeout.toNat + 1) s).regs.status.getLsbD 1 = true

/-- 43_controller.md R230, 20_memory.md R85, 30_encoding.md R100: over any stretch of SENDING cycles from the first frame
byte, with any stalls and any host accesses, the bytes the PHY takes are the beginning of the frame of the TX packet, one
per handshake, and when SENDING ends they are exactly the frame. -/
def Obligations.SentBytesAreTheFrame : Prop :=
  ∀ (s : State) (k : Nat), s.sqr.seq = .sending → s.sqr.txIdx = 0#9 → 2 ≤ s.tx.len.toNat →
    noReset k s → (∀ j < k, (stateAfter j s).sqr.seq = .sending) →
    sentBytes k s = s.tx.frame.take (sentBytes k s).length ∧
    ((stateAfter k s).sqr.seq = .sending → (stateAfter k s).sqr.txIdx.toNat = (sentBytes k s).length) ∧
    ((stateAfter k s).sqr.seq ≠ .sending → (stateAfter k s).sqr.seq = .guard ∧ sentBytes k s = s.tx.frame)

/-- 43_controller.md R234: with tx_ready = 1 in every cycle a frame of TX_LEN + 4 bytes takes exactly that many SENDING
cycles. -/
def Obligations.SendingTakesOneCyclePerByte : Prop :=
  ∀ s : State, s.sqr.seq = .sending → s.sqr.txIdx = 0#9 → noReset (s.tx.len.toNat + 4) s →
    (∀ j < s.tx.len.toNat + 4, (stateAfter j s).input.txReady = true) →
    (∀ j < s.tx.len.toNat + 4, (stateAfter j s).sqr.seq = .sending) ∧
    (stateAfter (s.tx.len.toNat + 4) s).sqr.seq = .guard

/-! ## The deserializer -/

/-- 42_monitor.md R173, R174, R175: one transition per byte in the header, id and length states. -/
def Obligations.HeaderIdAndLengthTransitions : Prop :=
  ∀ (p : Params) (r : RxUnit) (b : Byte),
    (r.phase = .header1 →
      r.consume p.payloadCap b = { r with phase := if b = 0xFF#8 then .header2 else .header1 }) ∧
    (r.phase = .header2 →
      r.consume p.payloadCap b = { r with phase := if b = 0xFF#8 then .packetId else .header1 }) ∧
    (r.phase = .packetId → r.consume p.payloadCap b = { r with id := b, phase := .length }) ∧
    (r.phase = .length → r.consume p.payloadCap b =
      { r with
        len := b
        pos := 0#8
        phase := if b.toNat < 2 ∨ p.payloadCap + 2 < b.toNat then .header1 else .payload })

/-- 42_monitor.md R176, R177: where each payload-phase byte goes, and the verdict on the last one. The hypotheses are the
invariant I3 of 10_state.md R48. -/
def Obligations.PayloadTransition : Prop :=
  ∀ (p : Params) (r : RxUnit) (b : Byte), r.phase = .payload → 2 ≤ r.len.toNat → r.pos.toNat < r.len.toNat →
    let q := r.consume p.payloadCap b
    q.id = r.id ∧ q.len = r.len ∧ q.pos.toNat = r.pos.toNat + 1 ∧
    q.op = (if r.pos.toNat = 0 then b else r.op) ∧
    q.cs = (if r.pos.toNat = r.len.toNat - 1 then b else r.cs) ∧
    (∀ i, q.pay.read i =
      if 1 ≤ r.pos.toNat ∧ r.pos.toNat ≤ r.len.toNat - 2 ∧ i = r.pos.toNat - 1 then b else r.pay.read i) ∧
    q.phase = (if r.pos.toNat + 1 = r.len.toNat then
      (if b = checksum r.id r.len r.op r.pay then .ready else .header1) else .payload)

/-- 42_monitor.md R181, at the deserializer: a frame with a correct checksum, consumed from HEADER1, reaches READY exactly
at its last byte, with every field of the RX packet equal to the frame's. -/
def Obligations.ValidFrameReachesReady : Prop :=
  ∀ (p : Params) (r : RxUnit) (id op : Byte) (payload : List Byte), r.phase = .header1 →
    payload.length ≤ p.payloadCap →
    let cs : Byte := ~~~(id + BitVec.ofNat 8 (payload.length + 2) + op + payload.sum)
    let bytes := frameBytes id op payload cs
    let q := r.consumeAll p.payloadCap bytes
    (∀ k < bytes.length, (r.consumeAll p.payloadCap (bytes.take k)).phase ≠ .ready) ∧
    q.phase = .ready ∧ q.id = id ∧ q.len.toNat = payload.length + 2 ∧ q.op = op ∧ q.cs = cs ∧ q.pos = q.len ∧
    (∀ i (h : i < payload.length), q.pay.read i = payload[i]) ∧
    ∀ i, payload.length ≤ i → q.pay.read i = r.pay.read i

/-- 42_monitor.md R177, R184: a frame with any other checksum byte, consumed from HEADER1, is discarded: HEADER1, never
READY. -/
def Obligations.BadChecksumFrameDiscarded : Prop :=
  ∀ (p : Params) (r : RxUnit) (id op cs : Byte) (payload : List Byte), r.phase = .header1 →
    payload.length ≤ p.payloadCap →
    cs ≠ ~~~(id + BitVec.ofNat 8 (payload.length + 2) + op + payload.sum) →
    (∀ k ≤ (frameBytes id op payload cs).length,
      (r.consumeAll p.payloadCap ((frameBytes id op payload cs).take k)).phase ≠ .ready) ∧
    (r.consumeAll p.payloadCap (frameBytes id op payload cs)).phase = .header1

/-- 42_monitor.md R180: from any state that satisfies I3, after at most PAYLOAD_CAP + 5 consumed bytes RXSTATE has been
HEADER1 or READY. -/
def Obligations.DeserializerNeverStuck : Prop :=
  ∀ (p : Params) (r : RxUnit) (bytes : List Byte),
    (r.phase = .payload → 2 ≤ r.len.toNat ∧ r.len.toNat ≤ p.payloadCap + 2 ∧ r.pos.toNat < r.len.toNat) →
    bytes.length = p.payloadCap + 5 →
    ∃ k ≤ bytes.length, (r.consumeAll p.payloadCap (bytes.take k)).phase = .header1 ∨
      (r.consumeAll p.payloadCap (bytes.take k)).phase = .ready

/-- 10_state.md R44, R43, R45: the quiet cycle's pop, the byte consumed, the push, and the sequencer's RxReset over them; a
step in which the host writes no command leaves the receive side as the quiet cycle does. -/
def Obligations.DeserializerCycle : Prop :=
  ∀ s : State,
    (s.input.rst = false → fetchCommand s.input = none →
      ∃ t, step s = .next t ∧ t.rx = (quietCycle s).rx ∧ t.fifo = (quietCycle s).fifo) ∧
    let t := quietCycle s
    let popped := s.rx.phase ≠ .ready ∧ s.fifoCount ≠ 0
    ∃ r : RxUnit,
      (popped → r = s.rx.consume s.params.payloadCap (s.fifo.mem.read (s.fifo.rd % s.params.fifoDepth)) ∧
        t.fifo.rd = (s.fifo.rd + 1) % (2 * s.params.fifoDepth)) ∧
      (¬popped → r = s.rx ∧ t.fifo.rd = s.fifo.rd) ∧ ingressOnly s t ∧
      ((s.sqr.seq = .guard ∧ s.sqr.gcnt = s.regs.guard ∧ s.sqr.mode = true) ∨
        (s.sqr.seq = .await ∧ r.phase ≠ .ready ∧ s.sqr.tmr = s.regs.timeout) →
        t.rx = { r with phase := .header1, pos := 0#8 }) ∧
      (¬((s.sqr.seq = .guard ∧ s.sqr.gcnt = s.regs.guard ∧ s.sqr.mode = true) ∨
        (s.sqr.seq = .await ∧ r.phase ≠ .ready ∧ s.sqr.tmr = s.regs.timeout)) → t.rx = r)

/-- 42_monitor.md R178, 70_reset_and_hazards.md R324: while READY and not BUSY, only RX_RESET, RECEIVE or a reset changes
the receive unit, and nothing is popped: the read cursor moves only by a flush, to the write cursor. -/
def Obligations.ReadyHoldsThePacket : Prop :=
  ∀ s : State, s.input.rst = false → s.busy = false → s.rx.phase = .ready →
    fetchCommand s.input ≠ some 0x01#8 → fetchCommand s.input ≠ some 0x09#8 →
    ∃ t, step s = .next t ∧ t.rx = s.rx ∧ (t.fifo.rd = s.fifo.rd ∨ t.fifo.rd = t.fifo.wr)

/-- 42_monitor.md R184, 60_exceptions.md R271: a cycle with no host write that does not enter READY, ends no guard interval
and does not time out changes no register: a discarded frame raises no STATUS bit, no ERR code and no interrupt, and a
response wait keeps counting. Cycles that begin in READY and GUARD cycles that only count are included; the premise that a
response wait does not begin in READY is the invariant I2 of 10_state.md R48. -/
def Obligations.DecodeErrorsAreSilent : Prop :=
  ∀ s : State, s.input.rst = false → s.input.busWe = false → (s.sqr.seq = .guard → s.sqr.gcnt ≠ s.regs.guard) →
    (s.sqr.seq = .await → s.rx.phase ≠ .ready ∧ s.sqr.tmr ≠ s.regs.timeout) →
    ∃ t, step s = .next t ∧
      (s.rx.phase = .ready ∨ t.rx.phase ≠ .ready → t.regs = s.regs ∧ irq t = irq s ∧
        (s.sqr.seq = .await → t.sqr = { s.sqr with tmr := s.sqr.tmr + 1#32 }))

/-! ## The receive FIFO -/

/-- 44_circular_buffer.md R252, R253, R259, R260: without overflow the FIFO is a queue: in a cycle with no host write the
unread bytes lose their first byte to the pop and gain the arriving byte at the end. -/
def Obligations.FifoIsAQueue : Prop :=
  ∀ s : State, s.input.rst = false → s.input.busWe = false →
    s.fifo.wr < 2 * s.params.fifoDepth → s.fifo.rd < 2 * s.params.fifoDepth →
    (s.fifoCount < s.params.fifoDepth ∨ s.fifoCount = s.params.fifoDepth ∧ s.rx.phase ≠ .ready) →
    ∃ t, step s = .next t ∧
      t.fifo.unread s.params.fifoDepth =
        (if s.rx.phase ≠ .ready then (s.fifo.unread s.params.fifoDepth).tail else s.fifo.unread s.params.fifoDepth) ++
        (if s.input.rxValid = true ∧ rxEn s = true then [s.input.rxData] else [])

/-- 44_circular_buffer.md R255 (a), (c): a push into a full FIFO writes the slot of the oldest unread byte and makes Count
D + 1; at Count = 2*D - 1 one more push makes the FIFO look empty. -/
def Obligations.FifoOverflow : Prop :=
  ∀ (p : Params) (f : Fifo) (b : Byte), f.wr < 2 * p.fifoDepth → f.rd < 2 * p.fifoDepth →
    (f.count p.fifoDepth = p.fifoDepth →
      (f.push p.fifoDepth b).head p.fifoDepth = b ∧ (f.push p.fifoDepth b).count p.fifoDepth = p.fifoDepth + 1) ∧
    (f.count p.fifoDepth = 2 * p.fifoDepth - 1 → (f.push p.fifoDepth b).count p.fifoDepth = 0)

/-- 44_circular_buffer.md R261: in a cycle with no command Count changes by the push and the pop alone, modulo 2*D. -/
def Obligations.FifoOccupancy : Prop :=
  ∀ s : State, s.input.rst = false → fetchCommand s.input = none →
    s.fifo.wr < 2 * s.params.fifoDepth → s.fifo.rd < 2 * s.params.fifoDepth → ∃ t, step s = .next t ∧
      t.fifoCount = (s.fifoCount + (if s.input.rxValid = true ∧ rxEn s = true then 1 else 0)
        - (if s.rx.phase ≠ .ready ∧ s.fifoCount ≠ 0 then 1 else 0)) % (2 * s.params.fifoDepth)

/-! ## Whole-machine rules -/

/-- 60_exceptions.md R277 (a) to (e), (g): which events of one cycle go together, and that each wins over a host clear, in
every state that satisfies the invariants of 10_state.md R48. -/
def Obligations.SimultaneousEvents : Prop :=
  ∀ (s : State) (h : HostWrite), RuleInvariants s →
    let e := cycleEvents s h
    (e.done = true → e.rxRdy = true) ∧ ¬(e.done = true ∧ e.timeout = true) ∧
    (abortsAwait s h = true → e.done = false ∧ e.timeout = false) ∧
    (e.txDone = true → e.done = false ∧ e.timeout = false ∧ e.rxRdy = false) ∧
    ∀ i < 5, e.bits.getLsbD i = true → (runCycle s h).regs.status.getLsbD i = true

/-- The reset state satisfies the invariants, for all parameters and inputs. -/
def Obligations.InvHoldsAtReset : Prop :=
  ∀ (p : Params) (c : Nat) (l : List CycleInput), StateInv (State.resetWith p c l)

/-- Every step keeps the invariants: those of 10_state.md R48, the cursors in range, the buffers canonical and inside
their capacity, the counters below their bounds, and a verified packet while READY. -/
def Obligations.StepKeepsInv : Prop :=
  ∀ s t : State, StateInv s → step s = .next t → StateInv t

/-- 10_state.md R48: I1 to I6 hold in every state reachable from reset, for all parameters and inputs. -/
def Obligations.RuleInvariantsHoldWhenReachable : Prop :=
  ∀ s : State, Reachable s → RuleInvariants s

/-! ## Host programs -/

/-- 30_encoding.md R117, 20_memory.md R76: while not BUSY, the four lines of `wr32 TIMEOUT, v` leave TIMEOUT = v and the
four lines of `wr32 GUARD, v` leave GUARD = v, whatever the PHY does meanwhile; SEQ and the TX packet are unchanged. -/
def Obligations.Wr32WritesAllFourBytes : Prop :=
  ∀ (s : State) (v : Word32) (a b c d : CycleInput) (rest : List CycleInput), s.busy = false →
    (s.inputs = List.zipWith HostLine.drive [a, b, c, d] (wr32Timeout v) ++ rest →
      (stateAfter 4 s).regs.timeout = v ∧ (stateAfter 4 s).regs.guard = s.regs.guard ∧
      (stateAfter 4 s).sqr = s.sqr ∧ (stateAfter 4 s).tx = s.tx ∧ (stateAfter 4 s).inputs = rest) ∧
    (s.inputs = List.zipWith HostLine.drive [a, b, c, d] (wr32Guard v) ++ rest →
      (stateAfter 4 s).regs.guard = v ∧ (stateAfter 4 s).regs.timeout = s.regs.timeout ∧
      (stateAfter 4 s).sqr = s.sqr ∧ (stateAfter 4 s).tx = s.tx ∧ (stateAfter 4 s).inputs = rest)
end

