-- ==== Sys2Proof/Laws/Memory.lean ====
section
/-! SUPPORT. The laws of the byte buffers: read after write, and every operation keeps the canonical form. The read laws
hold for every list, canonical or not. -/

namespace Sys2Proof.Machine

open Sys2Proof

@[simp] theorem Memory.read_nil (a : Nat) : Memory.read [] a = 0#8 := rfl

@[simp] theorem Memory.erase_nil (a : Nat) : Memory.erase [] a = [] := rfl

theorem Memory.read_erase (m : Memory) (a a' : Nat) :
    (Memory.erase m a).read a' = if a' = a then 0#8 else m.read a' := by
  induction m with
  | nil => simp
  | cons c m ih =>
    obtain ⟨k, v⟩ := c
    by_cases hk : k = a
    · subst hk
      by_cases ha : a' = k
      · subst ha; simpa [Memory.erase, Memory.read] using ih
      · simpa [Memory.erase, Memory.read, ha, Ne.symm ha] using ih
    · by_cases ha : a' = a
      · subst ha; simpa [Memory.erase, Memory.read, hk] using ih
      · by_cases hk' : k = a'
        · subst hk'; simp [Memory.erase, Memory.read, hk]
        · simpa [Memory.erase, Memory.read, hk, hk', ha] using ih

theorem Memory.read_insert (m : Memory) (a : Nat) (b : Byte) (a' : Nat) :
    (Memory.insert (Memory.erase m a) a b).read a' = if a' = a then b else m.read a' := by
  have key : ∀ m' : Memory, m'.read a = 0#8 ∧ (∀ c ∈ m', c.1 ≠ a) →
      Memory.read (Memory.insert m' a b) a' = if a' = a then b else Memory.read m' a' := by
    intro m'
    induction m' with
    | nil => intro _; by_cases ha : a' = a <;> simp [Memory.insert, Memory.read, ha, Ne.symm]
    | cons c m' ih =>
      obtain ⟨k, v⟩ := c
      rintro ⟨hr, hne⟩
      have hk : k ≠ a := hne (k, v) (by simp)
      have hr' : Memory.read m' a = 0#8 := by simpa [Memory.read, hk] using hr
      have ih' := ih ⟨hr', fun c hc => hne c (by simp [hc])⟩
      by_cases hlt : a < k
      · by_cases ha : a' = a
        · simp [Memory.insert, Memory.read, hlt, ha]
        · simp [Memory.insert, Memory.read, hlt, ha, Ne.symm ha]
      · by_cases hk' : k = a'
        · subst hk'; simp [Memory.insert, Memory.read, hlt, hk]
        · simpa [Memory.insert, Memory.read, hlt, hk'] using ih'
  have hne : ∀ c ∈ Memory.erase m a, c.1 ≠ a := by
    intro c hc
    induction m with
    | nil => simp at hc
    | cons x m ih =>
      obtain ⟨k, v⟩ := x
      by_cases hk : k = a
      · exact ih (by simpa [Memory.erase, hk] using hc)
      · rcases (by simpa [Memory.erase, hk] using hc : c = (k, v) ∨ c ∈ Memory.erase m a) with h | h
        · simpa [h] using hk
        · exact ih h
  rw [key _ ⟨by simp [Memory.read_erase], hne⟩]
  by_cases ha : a' = a
  · simp [ha]
  · simp [ha, Memory.read_erase]

/-- Read after write: the written index reads the written byte, and every other index reads as before. -/
theorem Memory.read_write (m : Memory) (a : Nat) (b : Byte) (a' : Nat) :
    (m.write a b).read a' = if a' = a then b else m.read a' := by
  unfold Memory.write
  by_cases hb : b = 0#8
  · by_cases ha : a' = a <;> simp [hb, Memory.read_erase, ha]
  · simp [hb, Memory.read_insert]

@[simp] theorem Memory.read_write_same (m : Memory) (a : Nat) (b : Byte) : (m.write a b).read a = b := by
  simp [Memory.read_write]

theorem Memory.read_write_other (m : Memory) {a a' : Nat} (b : Byte) (h : a' ≠ a) :
    (m.write a b).read a' = m.read a' := by simp [Memory.read_write, h]

theorem Memory.wfAbove_mono {lo lo' : Nat} (h : lo' ≤ lo) :
    ∀ {m : Memory}, Memory.wfAbove lo m = true → Memory.wfAbove lo' m = true
  | [], _ => rfl
  | (k, v) :: m, hm => by
    simp only [Memory.wfAbove, Bool.and_eq_true, decide_eq_true_eq] at hm ⊢
    exact ⟨⟨by omega, hm.1.2⟩, hm.2⟩

theorem Memory.wfAbove_erase (a : Nat) :
    ∀ {m : Memory} {lo : Nat}, Memory.wfAbove lo m = true → Memory.wfAbove lo (Memory.erase m a) = true
  | [], _, _ => rfl
  | (k, v) :: m, lo, hm => by
    simp only [Memory.wfAbove, Bool.and_eq_true, decide_eq_true_eq] at hm
    have ih := Memory.wfAbove_erase a hm.2
    by_cases hk : k = a
    · simpa [Memory.erase, hk] using Memory.wfAbove_mono (lo' := lo) (by omega) ih
    · simp [Memory.erase, hk, Memory.wfAbove, hm.1.1, hm.1.2, ih]

theorem Memory.wfAbove_insert {a : Nat} {b : Byte} (hb : b ≠ 0#8) :
    ∀ {m : Memory} {lo : Nat}, Memory.wfAbove lo m = true → lo ≤ a → (∀ c ∈ m, c.1 ≠ a) →
      Memory.wfAbove lo (Memory.insert m a b) = true
  | [], lo, _, hlo, _ => by simp [Memory.insert, Memory.wfAbove, hlo, hb]
  | (k, v) :: m, lo, hm, hlo, hne => by
    simp only [Memory.wfAbove, Bool.and_eq_true, decide_eq_true_eq] at hm
    have hk : k ≠ a := hne (k, v) (by simp)
    by_cases hlt : a < k
    · have hk1 : a + 1 ≤ k := hlt
      simp [Memory.insert, hlt, Memory.wfAbove, hlo, hb, hk1, hm.1.2, hm.2]
    · have ih := Memory.wfAbove_insert (a := a) hb hm.2 (by omega) fun c hc => hne c (by simp [hc])
      simp [Memory.insert, hlt, Memory.wfAbove, hm.1.1, hm.1.2, ih]

theorem Memory.mem_erase {m : Memory} {a : Nat} {c : Host.Cell} (h : c ∈ Memory.erase m a) : c ∈ m ∧ c.1 ≠ a := by
  induction m with
  | nil => simp at h
  | cons x m ih =>
    obtain ⟨k, v⟩ := x
    by_cases hk : k = a
    · have := ih (by simpa [Memory.erase, hk] using h)
      exact ⟨by simp [this.1], this.2⟩
    · rcases (by simpa [Memory.erase, hk] using h : c = (k, v) ∨ c ∈ Memory.erase m a) with h | h
      · exact ⟨by simp [h], by simpa [h] using hk⟩
      · exact ⟨by simp [(ih h).1], (ih h).2⟩

theorem Memory.mem_insert {m : Memory} {a : Nat} {b : Byte} {c : Host.Cell} (h : c ∈ Memory.insert m a b) :
    c = (a, b) ∨ c ∈ m := by
  induction m with
  | nil => simpa [Memory.insert] using h
  | cons x m ih =>
    obtain ⟨k, v⟩ := x
    by_cases hlt : a < k
    · simpa [Memory.insert, hlt] using h
    · rcases (by simpa [Memory.insert, hlt] using h : c = (k, v) ∨ c ∈ Memory.insert m a b) with h | h
      · simp [h]
      · rcases ih h with h | h <;> simp [h]

@[simp] theorem Memory.wf_nil : Memory.wf [] = true := rfl

/-- Every write keeps the canonical form. -/
theorem Memory.wf_write {m : Memory} (h : m.wf = true) (a : Nat) (b : Byte) : (m.write a b).wf = true := by
  unfold Memory.write Memory.wf
  by_cases hb : b = 0#8
  · simpa [hb] using Memory.wfAbove_erase a h
  · simpa [hb] using Memory.wfAbove_insert hb (Memory.wfAbove_erase a h) (Nat.zero_le a)
      fun c hc => (Memory.mem_erase hc).2

@[simp] theorem Memory.below_nil (cap : Nat) : Memory.below cap [] = true := rfl

/-- A write inside the capacity keeps the buffer inside it. -/
theorem Memory.below_write {m : Memory} {cap : Nat} (h : Memory.below cap m = true) {a : Nat} (ha : a < cap)
    (b : Byte) : Memory.below cap (m.write a b) = true := by
  simp only [Memory.below, List.all_eq_true, decide_eq_true_eq] at h ⊢
  intro c hc
  unfold Memory.write at hc
  by_cases hb : b = 0#8
  · exact h c (Memory.mem_erase (by simpa [hb] using hc)).1
  · rcases Memory.mem_insert (by simpa [hb] using hc) with hc | hc
    · simpa [hc] using ha
    · exact h c (Memory.mem_erase hc).1

end Sys2Proof.Machine
end

