-- ==== Sys2Proof/Laws/Operations.lean ====
section
/-! SUPPORT. What each shared operation can do, said once: register bytes, the register map, the checksum's sum, the FIFO's
cursors and its queue of unread bytes, the transmit byte function. -/

namespace Sys2Proof.Machine

open Sys2Proof

/-! ### Bytes of the 32-bit registers and of 16-bit values -/

theorem byteOfWord_eq_extract (w : Word32) (k : Fin 4) : byteOfWord w k = w.extractLsb' (8 * k.val) 8 := by
  apply BitVec.eq_of_toNat_eq
  simp [byteOfWord, BitVec.extractLsb'_toNat]

/-- Byte 0 is the lowest byte of a concatenation of four (20_memory.md R76). -/
theorem byteOfWord_append (x y z u : Byte) (i : Fin 4) :
    byteOfWord (x ++ y ++ z ++ u) i = (match i with | 0 => u | 1 => z | 2 => y | 3 => x) := by
  rw [byteOfWord_eq_extract]
  ext n hn
  rw [BitVec.getElem_extractLsb']
  simp only [BitVec.getLsbD_append]
  fin_cases i <;> simp only [] <;> (repeat' split) <;>
    first
    | omega
    | (simp only [← BitVec.getLsbD_eq_getElem]; congr 1; omega)

/-- Writing one byte of a 32-bit register replaces that byte and keeps the others. -/
theorem byteOfWord_setByteOfWord (w : Word32) (k j : Fin 4) (b : Byte) :
    byteOfWord (setByteOfWord w k b) j = if j = k then b else byteOfWord w j := by
  fin_cases k <;> simp only [setByteOfWord, byteOfWord_append] <;> fin_cases j <;> simp

/-- The halves of ARG2 : ARG1 (30_encoding.md R111; 20_memory.md R77). -/
theorem lowByte_highByte_append (a b : Byte) : lowByte (a ++ b) = b ∧ highByte (a ++ b) = a := by
  have := a.isLt
  have := b.isLt
  have e : (a ++ b : BitVec 16).toNat = a.toNat * 256 + b.toNat := by
    rw [show (a ++ b : BitVec 16).toNat = (a.toNat <<< 8) ||| b.toNat from BitVec.toNat_append a b,
      ← Nat.shiftLeft_add_eq_or_of_lt (by omega), Nat.shiftLeft_eq]
  constructor <;> apply BitVec.eq_of_toNat_eq <;>
    simp only [lowByte, highByte, e, BitVec.toNat_ofNat, Nat.shiftRight_eq_div_pow] <;> omega

/-! ### The register map -/

/-- The map above its listed low part: the two windows, and reserved addresses (20_memory.md R61). -/
theorem regAt_of_le {p : Params} {a : Addr} (h : 0x1E ≤ a.toNat) : regAt p a =
    if 0x100 ≤ a.toNat ∧ a.toNat < 0x100 + p.payloadCap then .txPay (a.toNat - 0x100)
    else if 0x200 ≤ a.toNat ∧ a.toNat < 0x200 + p.payloadCap then .rxPay (a.toNat - 0x200)
    else .reserved := by
  unfold regAt
  split <;> first | omega | rfl

/-- STATUS stands at 0x001 and nowhere else (20_memory.md R61). -/
theorem regAt_access_ne_w1c {p : Params} {a : Addr} (h : a ≠ 0x001#10) : (regAt p a).access ≠ .w1c := by
  have h1 : a.toNat ≠ 1 := fun e => h (BitVec.eq_of_toNat_eq e)
  by_cases hl : 0x1E ≤ a.toNat
  · rw [regAt_of_le hl]; split <;> [skip; split] <;> simp [Reg.access]
  · unfold regAt
    generalize a.toNat = n at *
    have : n < 0x1E := by omega
    interval_cases n <;> simp [Reg.access] at *

/-! ### The checksum's sum -/

/-- The sum after a write: the byte replaced, if it is covered (40_packet_checksum.md R130, R131). -/
theorem paySum_write (pay : Memory) (i : Nat) (b : Byte) :
    ∀ n, paySum (pay.write i b) n = if i < n then paySum pay n - pay.read i + b else paySum pay n
  | 0 => rfl
  | n + 1 => by
    rw [paySum, paySum, paySum_write pay i b n]
    by_cases h : i = n
    · subst h; simp
    · rw [Memory.read_write_other _ _ (by omega)]
      by_cases h' : i < n
      · simp [h', show i < n + 1 by omega]; bv_omega
      · simp [h', show ¬ i < n + 1 by omega]

/-- The sum of a buffer that starts with a list is the list's sum. -/
theorem paySum_eq_sum (pay : Memory) : ∀ l : List Byte, (∀ i (h : i < l.length), pay.read i = l[i]) →
    paySum pay l.length = l.sum := by
  intro l
  induction l using List.reverseRecOn with
  | nil => intro _; rfl
  | append_singleton l b ih =>
    intro h
    simp only [List.length_append, List.length_singleton, paySum, List.sum_append, List.sum_singleton]
    rw [ih fun i hi => by rw [h i (by simp; omega), List.getElem_append_left], h l.length (by simp)]
    simp

/-! ### The FIFO -/

theorem Params.fifoDepth_pos (p : Params) : 0 < p.fifoDepth := by unfold Params.fifoDepth; positivity

theorem Params.fifoDepth_le (p : Params) : 2 ≤ p.fifoDepth ∧ p.fifoDepth ≤ 128 := by
  unfold Params.fifoDepth
  exact ⟨le_trans (by norm_num) (Nat.pow_le_pow_right (n := 2) (by omega) p.depthLegal.1),
    le_trans (Nat.pow_le_pow_right (n := 2) (by omega) p.depthLegal.2) (by norm_num)⟩

/-- Count without integers, for cursors in range (44_circular_buffer.md R251, R256). -/
theorem Fifo.count_eq {d : Nat} {f : Fifo} (hw : f.wr < 2 * d) (hr : f.rd < 2 * d) :
    f.count d = if f.rd ≤ f.wr then f.wr - f.rd else f.wr + 2 * d - f.rd := by
  unfold Fifo.count
  split
  · rw [Int.emod_eq_of_lt (by omega) (by omega)]; omega
  · have : ((f.wr : Int) - f.rd) % ((2 * d : Nat) : Int) =
        ((f.wr : Int) - f.rd + (2 * d : Nat)) % ((2 * d : Nat) : Int) := by simp
    rw [this, Int.emod_eq_of_lt (by omega) (by omega)]; omega

/-- A cursor's successor modulo 2*D. -/
theorem Fifo.succ_mod {d w : Nat} (h : w < 2 * d) : (w + 1) % (2 * d) = if w + 1 = 2 * d then 0 else w + 1 := by
  split
  · rename_i h; rw [h, Nat.mod_self]
  · exact Nat.mod_eq_of_lt (by omega)

/-- The write slot is Count slots after the read slot. -/
theorem Fifo.wr_mod_eq {d : Nat} {f : Fifo} (hw : f.wr < 2 * d) (hr : f.rd < 2 * d) :
    f.wr % d = (f.rd + f.count d) % d := by
  rw [Fifo.count_eq hw hr]
  split
  · congr 1; omega
  · rw [show f.rd + (f.wr + 2 * d - f.rd) = f.wr + d * 2 by omega, Nat.add_mul_mod_self_left]

theorem Fifo.slots_ne {d a i j : Nat} (hij : i < j) (hjd : j < i + d) : (a + i) % d ≠ (a + j) % d := by
  intro h
  have hdvd : d ∣ (a + j) - (a + i) := (Nat.modEq_iff_dvd' (by omega)).mp h
  have := Nat.le_of_dvd (by omega) hdvd
  omega

/-- A push into a FIFO that is not full adds its byte at the end of the unread bytes (R252, R260). -/
theorem Fifo.unread_push {d : Nat} {f : Fifo} (b : Byte) (hd : 0 < d) (hw : f.wr < 2 * d) (hr : f.rd < 2 * d)
    (hc : f.count d < d) : (f.push d b).unread d = f.unread d ++ [b] := by
  have hcc : (f.push d b).count d = f.count d + 1 := by
    rw [Fifo.count_eq (f := f.push d b) (by exact Nat.mod_lt _ (by omega)) hr, Fifo.count_eq hw hr]
    rw [Fifo.count_eq hw hr] at hc
    simp only [Fifo.push, Fifo.succ_mod hw]
    (repeat' split) <;> (try split at hc) <;> omega
  unfold Fifo.unread
  rw [hcc, List.range_succ, List.map_append]
  congr 1
  · apply List.map_congr_left
    intro i hi
    simp only [List.mem_range] at hi
    simp only [Fifo.push, Memory.read_write]
    rw [if_neg]
    rw [Fifo.wr_mod_eq hw hr]
    exact Fifo.slots_ne hi (by omega)
  · simp [Fifo.push, Fifo.wr_mod_eq hw hr]

/-- A pop takes the first unread byte and leaves the rest (R253, R260). -/
theorem Fifo.unread_pop {d : Nat} {f : Fifo} (hw : f.wr < 2 * d) (hr : f.rd < 2 * d) (hc : f.count d ≠ 0) :
    Fifo.unread d { f with rd := f.nextRd d } = (f.unread d).tail ∧
      Fifo.count d { f with rd := f.nextRd d } = f.count d - 1 := by
  have hcc : Fifo.count d { f with rd := f.nextRd d } = f.count d - 1 := by
    rw [Fifo.count_eq (f := { f with rd := f.nextRd d }) hw (by exact Nat.mod_lt _ (by omega)),
      Fifo.count_eq hw hr]
    rw [Fifo.count_eq hw hr] at hc
    simp only [Fifo.nextRd, Fifo.succ_mod hr]
    (repeat' split) <;> (try split at hc) <;> omega
  refine ⟨?_, hcc⟩
  unfold Fifo.unread
  rw [hcc]
  obtain ⟨n, hn⟩ : ∃ n, f.count d = n + 1 := ⟨f.count d - 1, by omega⟩
  rw [hn, List.range_succ_eq_map]
  simp only [Fifo.nextRd, List.map_cons, List.tail_cons, List.map_map]
  apply List.map_congr_left
  intro i _
  simp only [Function.comp]
  congr 1
  rw [Nat.add_mod, Nat.mod_mul_left_mod, ← Nat.add_mod]
  congr 1
  omega

/-- A flush leaves nothing unread (R257). -/
theorem Fifo.count_flush (d : Nat) (f : Fifo) : f.flush.count d = 0 := by simp [Fifo.flush, Fifo.count]

/-! ### The frame -/

/-- FrameByte is the frame's byte at every position inside it (30_encoding.md R100, R101). -/
theorem TxPacket.frame_getElem? (p : TxPacket) (h : 2 ≤ p.len.toNat) (k : Nat) (hk : k < p.len.toNat + 4) :
    p.frame[k]? = some (p.frameByte k) := by
  have hl : BitVec.ofNat 8 (p.len.toNat - 2 + 2) = p.len := by
    apply BitVec.eq_of_toNat_eq
    have := p.len.isLt
    simp; omega
  unfold TxPacket.frame frameBytes TxPacket.frameByte
  match k with
  | 0 => rfl
  | 1 => rfl
  | 2 => rfl
  | 3 => simp [Memory.firstBytes]; exact hl
  | 4 => rfl
  | k + 5 =>
    simp only [Memory.firstBytes, List.length_map, List.length_range]
    by_cases hc : k + 5 ≤ p.len.toNat + 2
    · simp [hc]
      rw [List.getElem?_append_left (by simp; omega)]
      simp
      exact ⟨k, by rw [List.getElem?_range (by omega)], rfl⟩
    · have : k = p.len.toNat - 2 := by omega
      subst this
      simp [hc]
      intro hh
      omega

end Sys2Proof.Machine
end

