-- ==== Sys2Proof/Laws/PerInstr.lean ====
section
/-! SUPPORT. Statements about every command, one lemma per constructor. -/

namespace Sys2Proof.Laws.OneByte

open Sys2Proof

/-- A command is one byte with no operand fields, and a well-formed one is read back from it whatever follows
(30_encoding.md R115). -/
def Statement (i : Instr) : Prop :=
  (encode i).length = 1 ∧ (i.wf = true → decodeTableWord 8 i.code.toNat = some i)

theorem nop : Statement .nop := ⟨rfl, fun _ => rfl⟩
theorem rxReset : Statement .rxReset := ⟨rfl, fun _ => rfl⟩
theorem fifoFlush : Statement .fifoFlush := ⟨rfl, fun _ => rfl⟩
theorem setChecksum : Statement .setChecksum := ⟨rfl, fun _ => rfl⟩
theorem buildRead : Statement .buildRead := ⟨rfl, fun _ => rfl⟩
theorem buildWrite8 : Statement .buildWrite8 := ⟨rfl, fun _ => rfl⟩
theorem buildWrite16 : Statement .buildWrite16 := ⟨rfl, fun _ => rfl⟩
theorem send : Statement .send := ⟨rfl, fun _ => rfl⟩
theorem transact : Statement .transact := ⟨rfl, fun _ => rfl⟩
theorem receive : Statement .receive := ⟨rfl, fun _ => rfl⟩
theorem abort : Statement .abort := ⟨rfl, fun _ => rfl⟩
theorem readReg : Statement .readReg := ⟨rfl, fun _ => rfl⟩
theorem writeReg8 : Statement .writeReg8 := ⟨rfl, fun _ => rfl⟩
theorem writeReg16 : Statement .writeReg16 := ⟨rfl, fun _ => rfl⟩

theorem reserved (code : Byte) : Statement (.reserved code) :=
  ⟨rfl, by simp only [Instr.code]; revert code; decide⟩

end Sys2Proof.Laws.OneByte
end

