-- ==== Sys2Proof/Laws/State.lean ====
section
/-! SUPPORT. One lemma per field for every named update of the state, true by rfl, so that no proof unfolds a record
update. -/

namespace Sys2Proof.Machine

open Sys2Proof

/-! ### `State.tick` -/

@[simp] theorem State.tick_params (s : State) :
    (s.tick).params = s.params := rfl

@[simp] theorem State.tick_inputs (s : State) :
    (s.tick).inputs = s.inputs.tail := rfl

@[simp] theorem State.tick_cycle (s : State) :
    (s.tick).cycle = s.cycle + 1 := rfl

@[simp] theorem State.tick_tx (s : State) :
    (s.tick).tx = s.tx := rfl

@[simp] theorem State.tick_rx (s : State) :
    (s.tick).rx = s.rx := rfl

@[simp] theorem State.tick_fifo (s : State) :
    (s.tick).fifo = s.fifo := rfl

@[simp] theorem State.tick_sqr (s : State) :
    (s.tick).sqr = s.sqr := rfl

@[simp] theorem State.tick_regs (s : State) :
    (s.tick).regs = s.regs := rfl

/-! ### `updateStatus` -/

@[simp] theorem updateStatus_params (s t : State) (h : HostWrite) (e : Events) :
    (updateStatus s h e t).params = t.params := rfl

@[simp] theorem updateStatus_inputs (s t : State) (h : HostWrite) (e : Events) :
    (updateStatus s h e t).inputs = t.inputs := rfl

@[simp] theorem updateStatus_cycle (s t : State) (h : HostWrite) (e : Events) :
    (updateStatus s h e t).cycle = t.cycle := rfl

@[simp] theorem updateStatus_tx (s t : State) (h : HostWrite) (e : Events) :
    (updateStatus s h e t).tx = t.tx := rfl

@[simp] theorem updateStatus_rx (s t : State) (h : HostWrite) (e : Events) :
    (updateStatus s h e t).rx = t.rx := rfl

@[simp] theorem updateStatus_fifo (s t : State) (h : HostWrite) (e : Events) :
    (updateStatus s h e t).fifo = t.fifo := rfl

@[simp] theorem updateStatus_sqr (s t : State) (h : HostWrite) (e : Events) :
    (updateStatus s h e t).sqr = t.sqr := rfl

@[simp] theorem updateStatus_regs_timeout (s t : State) (h : HostWrite) (e : Events) :
    (updateStatus s h e t).regs.timeout = t.regs.timeout := rfl

@[simp] theorem updateStatus_regs_guard (s t : State) (h : HostWrite) (e : Events) :
    (updateStatus s h e t).regs.guard = t.regs.guard := rfl

@[simp] theorem updateStatus_regs_arg0 (s t : State) (h : HostWrite) (e : Events) :
    (updateStatus s h e t).regs.arg0 = t.regs.arg0 := rfl

@[simp] theorem updateStatus_regs_arg1 (s t : State) (h : HostWrite) (e : Events) :
    (updateStatus s h e t).regs.arg1 = t.regs.arg1 := rfl

@[simp] theorem updateStatus_regs_arg2 (s t : State) (h : HostWrite) (e : Events) :
    (updateStatus s h e t).regs.arg2 = t.regs.arg2 := rfl

@[simp] theorem updateStatus_regs_status (s t : State) (h : HostWrite) (e : Events) :
    (updateStatus s h e t).regs.status = nextStatus s h e := rfl

@[simp] theorem updateStatus_regs_irqEn (s t : State) (h : HostWrite) (e : Events) :
    (updateStatus s h e t).regs.irqEn = t.regs.irqEn := rfl

@[simp] theorem updateStatus_regs_err (s t : State) (h : HostWrite) (e : Events) :
    (updateStatus s h e t).regs.err = nextErr s h := rfl

/-! ### `startSending` -/

@[simp] theorem startSending_params (m : Bool) (p : TxPacket) (t : State) :
    (startSending m p t).params = t.params := rfl

@[simp] theorem startSending_inputs (m : Bool) (p : TxPacket) (t : State) :
    (startSending m p t).inputs = t.inputs := rfl

@[simp] theorem startSending_cycle (m : Bool) (p : TxPacket) (t : State) :
    (startSending m p t).cycle = t.cycle := rfl

@[simp] theorem startSending_tx (m : Bool) (p : TxPacket) (t : State) :
    (startSending m p t).tx = p := rfl

@[simp] theorem startSending_rx (m : Bool) (p : TxPacket) (t : State) :
    (startSending m p t).rx = t.rx := rfl

@[simp] theorem startSending_fifo (m : Bool) (p : TxPacket) (t : State) :
    (startSending m p t).fifo = t.fifo.flush := rfl

@[simp] theorem startSending_sqr_seq (m : Bool) (p : TxPacket) (t : State) :
    (startSending m p t).sqr.seq = .sending := rfl

@[simp] theorem startSending_sqr_mode (m : Bool) (p : TxPacket) (t : State) :
    (startSending m p t).sqr.mode = m := rfl

@[simp] theorem startSending_sqr_txIdx (m : Bool) (p : TxPacket) (t : State) :
    (startSending m p t).sqr.txIdx = 0#9 := rfl

@[simp] theorem startSending_sqr_gcnt (m : Bool) (p : TxPacket) (t : State) :
    (startSending m p t).sqr.gcnt = t.sqr.gcnt := rfl

@[simp] theorem startSending_sqr_tmr (m : Bool) (p : TxPacket) (t : State) :
    (startSending m p t).sqr.tmr = t.sqr.tmr := rfl

@[simp] theorem startSending_regs (m : Bool) (p : TxPacket) (t : State) :
    (startSending m p t).regs = t.regs := rfl

/-! ### `startReceiving` -/

@[simp] theorem startReceiving_params (t : State) :
    (startReceiving t).params = t.params := rfl

@[simp] theorem startReceiving_inputs (t : State) :
    (startReceiving t).inputs = t.inputs := rfl

@[simp] theorem startReceiving_cycle (t : State) :
    (startReceiving t).cycle = t.cycle := rfl

@[simp] theorem startReceiving_tx (t : State) :
    (startReceiving t).tx = t.tx := rfl

@[simp] theorem startReceiving_rx (t : State) :
    (startReceiving t).rx = t.rx.reset := rfl

@[simp] theorem startReceiving_fifo (t : State) :
    (startReceiving t).fifo = t.fifo := rfl

@[simp] theorem startReceiving_sqr_seq (t : State) :
    (startReceiving t).sqr.seq = .await := rfl

@[simp] theorem startReceiving_sqr_mode (t : State) :
    (startReceiving t).sqr.mode = t.sqr.mode := rfl

@[simp] theorem startReceiving_sqr_txIdx (t : State) :
    (startReceiving t).sqr.txIdx = t.sqr.txIdx := rfl

@[simp] theorem startReceiving_sqr_gcnt (t : State) :
    (startReceiving t).sqr.gcnt = t.sqr.gcnt := rfl

@[simp] theorem startReceiving_sqr_tmr (t : State) :
    (startReceiving t).sqr.tmr = 0#32 := rfl

@[simp] theorem startReceiving_regs (t : State) :
    (startReceiving t).regs = t.regs := rfl

/-! ### `setChecksumEffect` -/

@[simp] theorem setChecksumEffect_params (s t : State) :
    (setChecksumEffect s t).params = t.params := rfl

@[simp] theorem setChecksumEffect_inputs (s t : State) :
    (setChecksumEffect s t).inputs = t.inputs := rfl

@[simp] theorem setChecksumEffect_cycle (s t : State) :
    (setChecksumEffect s t).cycle = t.cycle := rfl

@[simp] theorem setChecksumEffect_tx_id (s t : State) :
    (setChecksumEffect s t).tx.id = t.tx.id := rfl

@[simp] theorem setChecksumEffect_tx_len (s t : State) :
    (setChecksumEffect s t).tx.len = t.tx.len := rfl

@[simp] theorem setChecksumEffect_tx_op (s t : State) :
    (setChecksumEffect s t).tx.op = t.tx.op := rfl

@[simp] theorem setChecksumEffect_tx_cs (s t : State) :
    (setChecksumEffect s t).tx.cs = s.tx.checksum := rfl

@[simp] theorem setChecksumEffect_tx_pay (s t : State) :
    (setChecksumEffect s t).tx.pay = t.tx.pay := rfl

@[simp] theorem setChecksumEffect_rx (s t : State) :
    (setChecksumEffect s t).rx = t.rx := rfl

@[simp] theorem setChecksumEffect_fifo (s t : State) :
    (setChecksumEffect s t).fifo = t.fifo := rfl

@[simp] theorem setChecksumEffect_sqr (s t : State) :
    (setChecksumEffect s t).sqr = t.sqr := rfl

@[simp] theorem setChecksumEffect_regs (s t : State) :
    (setChecksumEffect s t).regs = t.regs := rfl

/-! ### `withRefusal` -/

@[simp] theorem withRefusal_params (e : ErrCode) (t : State) :
    (withRefusal e t).params = t.params := rfl

@[simp] theorem withRefusal_inputs (e : ErrCode) (t : State) :
    (withRefusal e t).inputs = t.inputs := rfl

@[simp] theorem withRefusal_cycle (e : ErrCode) (t : State) :
    (withRefusal e t).cycle = t.cycle := rfl

@[simp] theorem withRefusal_tx (e : ErrCode) (t : State) :
    (withRefusal e t).tx = t.tx := rfl

@[simp] theorem withRefusal_rx (e : ErrCode) (t : State) :
    (withRefusal e t).rx = t.rx := rfl

@[simp] theorem withRefusal_fifo (e : ErrCode) (t : State) :
    (withRefusal e t).fifo = t.fifo := rfl

@[simp] theorem withRefusal_sqr (e : ErrCode) (t : State) :
    (withRefusal e t).sqr = t.sqr := rfl

@[simp] theorem withRefusal_regs_timeout (e : ErrCode) (t : State) :
    (withRefusal e t).regs.timeout = t.regs.timeout := rfl

@[simp] theorem withRefusal_regs_guard (e : ErrCode) (t : State) :
    (withRefusal e t).regs.guard = t.regs.guard := rfl

@[simp] theorem withRefusal_regs_arg0 (e : ErrCode) (t : State) :
    (withRefusal e t).regs.arg0 = t.regs.arg0 := rfl

@[simp] theorem withRefusal_regs_arg1 (e : ErrCode) (t : State) :
    (withRefusal e t).regs.arg1 = t.regs.arg1 := rfl

@[simp] theorem withRefusal_regs_arg2 (e : ErrCode) (t : State) :
    (withRefusal e t).regs.arg2 = t.regs.arg2 := rfl

@[simp] theorem withRefusal_regs_status (e : ErrCode) (t : State) :
    (withRefusal e t).regs.status = t.regs.status ||| 0x10#5 := rfl

@[simp] theorem withRefusal_regs_irqEn (e : ErrCode) (t : State) :
    (withRefusal e t).regs.irqEn = t.regs.irqEn := rfl

@[simp] theorem withRefusal_regs_err (e : ErrCode) (t : State) :
    (withRefusal e t).regs.err = e := rfl

/-! ### `RxUnit.reset` -/

@[simp] theorem RxUnit.reset_phase (r : RxUnit) :
    (r.reset).phase = .header1 := rfl

@[simp] theorem RxUnit.reset_pos (r : RxUnit) :
    (r.reset).pos = 0#8 := rfl

@[simp] theorem RxUnit.reset_id (r : RxUnit) :
    (r.reset).id = r.id := rfl

@[simp] theorem RxUnit.reset_len (r : RxUnit) :
    (r.reset).len = r.len := rfl

@[simp] theorem RxUnit.reset_op (r : RxUnit) :
    (r.reset).op = r.op := rfl

@[simp] theorem RxUnit.reset_cs (r : RxUnit) :
    (r.reset).cs = r.cs := rfl

@[simp] theorem RxUnit.reset_pay (r : RxUnit) :
    (r.reset).pay = r.pay := rfl

/-! ### `RxUnit.onHeader2` -/

@[simp] theorem RxUnit.onHeader2_phase (r : RxUnit) (b : Byte) :
    (r.onHeader2 b).phase = if b = 0xFF#8 then .packetId else .header1 := rfl

@[simp] theorem RxUnit.onHeader2_pos (r : RxUnit) (b : Byte) :
    (r.onHeader2 b).pos = r.pos := rfl

@[simp] theorem RxUnit.onHeader2_id (r : RxUnit) (b : Byte) :
    (r.onHeader2 b).id = r.id := rfl

@[simp] theorem RxUnit.onHeader2_len (r : RxUnit) (b : Byte) :
    (r.onHeader2 b).len = r.len := rfl

@[simp] theorem RxUnit.onHeader2_op (r : RxUnit) (b : Byte) :
    (r.onHeader2 b).op = r.op := rfl

@[simp] theorem RxUnit.onHeader2_cs (r : RxUnit) (b : Byte) :
    (r.onHeader2 b).cs = r.cs := rfl

@[simp] theorem RxUnit.onHeader2_pay (r : RxUnit) (b : Byte) :
    (r.onHeader2 b).pay = r.pay := rfl

/-! ### `RxUnit.onPacketId` -/

@[simp] theorem RxUnit.onPacketId_phase (r : RxUnit) (b : Byte) :
    (r.onPacketId b).phase = .length := rfl

@[simp] theorem RxUnit.onPacketId_pos (r : RxUnit) (b : Byte) :
    (r.onPacketId b).pos = r.pos := rfl

@[simp] theorem RxUnit.onPacketId_id (r : RxUnit) (b : Byte) :
    (r.onPacketId b).id = b := rfl

@[simp] theorem RxUnit.onPacketId_len (r : RxUnit) (b : Byte) :
    (r.onPacketId b).len = r.len := rfl

@[simp] theorem RxUnit.onPacketId_op (r : RxUnit) (b : Byte) :
    (r.onPacketId b).op = r.op := rfl

@[simp] theorem RxUnit.onPacketId_cs (r : RxUnit) (b : Byte) :
    (r.onPacketId b).cs = r.cs := rfl

@[simp] theorem RxUnit.onPacketId_pay (r : RxUnit) (b : Byte) :
    (r.onPacketId b).pay = r.pay := rfl

/-! ### `RxUnit.onLength` -/

@[simp] theorem RxUnit.onLength_phase (cap : Nat) (r : RxUnit) (b : Byte) :
    (r.onLength cap b).phase = if 2 ≤ b.toNat ∧ b.toNat ≤ cap + 2 then .payload else .header1 := rfl

@[simp] theorem RxUnit.onLength_pos (cap : Nat) (r : RxUnit) (b : Byte) :
    (r.onLength cap b).pos = 0#8 := rfl

@[simp] theorem RxUnit.onLength_id (cap : Nat) (r : RxUnit) (b : Byte) :
    (r.onLength cap b).id = r.id := rfl

@[simp] theorem RxUnit.onLength_len (cap : Nat) (r : RxUnit) (b : Byte) :
    (r.onLength cap b).len = b := rfl

@[simp] theorem RxUnit.onLength_op (cap : Nat) (r : RxUnit) (b : Byte) :
    (r.onLength cap b).op = r.op := rfl

@[simp] theorem RxUnit.onLength_cs (cap : Nat) (r : RxUnit) (b : Byte) :
    (r.onLength cap b).cs = r.cs := rfl

@[simp] theorem RxUnit.onLength_pay (cap : Nat) (r : RxUnit) (b : Byte) :
    (r.onLength cap b).pay = r.pay := rfl

/-! ### `RxUnit.onPayload` -/

@[simp] theorem RxUnit.onPayload_phase (r : RxUnit) (b : Byte) :
    (r.onPayload b).phase = r.payloadPhase b := rfl

@[simp] theorem RxUnit.onPayload_pos (r : RxUnit) (b : Byte) :
    (r.onPayload b).pos = r.pos + 1#8 := rfl

@[simp] theorem RxUnit.onPayload_id (r : RxUnit) (b : Byte) :
    (r.onPayload b).id = (r.storePayloadByte b).id := rfl

@[simp] theorem RxUnit.onPayload_len (r : RxUnit) (b : Byte) :
    (r.onPayload b).len = (r.storePayloadByte b).len := rfl

@[simp] theorem RxUnit.onPayload_op (r : RxUnit) (b : Byte) :
    (r.onPayload b).op = (r.storePayloadByte b).op := rfl

@[simp] theorem RxUnit.onPayload_cs (r : RxUnit) (b : Byte) :
    (r.onPayload b).cs = (r.storePayloadByte b).cs := rfl

@[simp] theorem RxUnit.onPayload_pay (r : RxUnit) (b : Byte) :
    (r.onPayload b).pay = (r.storePayloadByte b).pay := rfl

/-! ### `Fifo.push` -/

@[simp] theorem Fifo.push_mem (d : Nat) (f : Fifo) (b : Byte) :
    (f.push d b).mem = f.mem.write (f.wr % d) b := rfl

@[simp] theorem Fifo.push_wr (d : Nat) (f : Fifo) (b : Byte) :
    (f.push d b).wr = (f.wr + 1) % (2 * d) := rfl

@[simp] theorem Fifo.push_rd (d : Nat) (f : Fifo) (b : Byte) :
    (f.push d b).rd = f.rd := rfl

/-! ### `Fifo.flush` -/

@[simp] theorem Fifo.flush_mem (f : Fifo) :
    (f.flush).mem = f.mem := rfl

@[simp] theorem Fifo.flush_wr (f : Fifo) :
    (f.flush).wr = f.wr := rfl

@[simp] theorem Fifo.flush_rd (f : Fifo) :
    (f.flush).rd = f.wr := rfl

/-! ### `TxPacket.sealed` -/

@[simp] theorem TxPacket.sealed_id (p : TxPacket) :
    (p.sealed).id = p.id := rfl

@[simp] theorem TxPacket.sealed_len (p : TxPacket) :
    (p.sealed).len = p.len := rfl

@[simp] theorem TxPacket.sealed_op (p : TxPacket) :
    (p.sealed).op = p.op := rfl

@[simp] theorem TxPacket.sealed_cs (p : TxPacket) :
    (p.sealed).cs = p.checksum := rfl

@[simp] theorem TxPacket.sealed_pay (p : TxPacket) :
    (p.sealed).pay = p.pay := rfl

end Sys2Proof.Machine
end

