-- ==== Sys2Proof/Laws/Phases.lean ====
section
/-! SUPPORT. What each phase of a cycle can do, said once: which elements it writes, and with what. Later proofs cite
these and unfold no phase. -/

namespace Sys2Proof.Machine

open Sys2Proof

/-! ### Phase 2, ingress: only FIFO_MEM and FIFO_WR -/

@[simp] theorem afterIngress_params (s : State) : (afterIngress s).params = s.params := by
  unfold afterIngress; split <;> rfl
@[simp] theorem afterIngress_inputs (s : State) : (afterIngress s).inputs = s.inputs := by
  unfold afterIngress; split <;> rfl
@[simp] theorem afterIngress_cycle (s : State) : (afterIngress s).cycle = s.cycle := by
  unfold afterIngress; split <;> rfl
@[simp] theorem afterIngress_tx (s : State) : (afterIngress s).tx = s.tx := by
  unfold afterIngress; split <;> rfl
@[simp] theorem afterIngress_rx (s : State) : (afterIngress s).rx = s.rx := by
  unfold afterIngress; split <;> rfl
@[simp] theorem afterIngress_sqr (s : State) : (afterIngress s).sqr = s.sqr := by
  unfold afterIngress; split <;> rfl
@[simp] theorem afterIngress_regs (s : State) : (afterIngress s).regs = s.regs := by
  unfold afterIngress; split <;> rfl
@[simp] theorem afterIngress_fifo_rd (s : State) : (afterIngress s).fifo.rd = s.fifo.rd := by
  unfold afterIngress; split <;> rfl

theorem afterIngress_fifo (s : State) : (afterIngress s).fifo =
    if s.input.rxValid = true ∧ rxEn s = true then s.fifo.push s.params.fifoDepth s.input.rxData else s.fifo := by
  unfold afterIngress; by_cases h : s.input.rxValid = true <;> by_cases h' : rxEn s = true <;> simp [h, h']

/-- Phase 2 as the statements say it. -/
theorem afterIngress_ingressOnly (s : State) : ingressOnly s (afterIngress s) := by
  unfold ingressOnly
  rw [afterIngress_fifo]
  split
  · exact ⟨rfl, fun j => Memory.read_write _ _ _ j⟩
  · exact ⟨rfl, fun _ => rfl⟩

/-- `ingressOnly` looks at the write side of the FIFO alone. -/
theorem ingressOnly_congr {s t u : State} (hw : u.fifo.wr = t.fifo.wr) (hm : u.fifo.mem = t.fifo.mem)
    (h : ingressOnly s t) : ingressOnly s u := by
  unfold ingressOnly at *
  rw [hw, hm]; exact h

/-! ### Phase 3, deserializer: only FIFO_RD and the receive unit -/

@[simp] theorem afterDeserializer_params (s : State) (h : HostWrite) : (afterDeserializer s h).params = s.params := by
  unfold afterDeserializer; dsimp only; split <;> simp
@[simp] theorem afterDeserializer_inputs (s : State) (h : HostWrite) : (afterDeserializer s h).inputs = s.inputs := by
  unfold afterDeserializer; dsimp only; split <;> simp
@[simp] theorem afterDeserializer_cycle (s : State) (h : HostWrite) : (afterDeserializer s h).cycle = s.cycle := by
  unfold afterDeserializer; dsimp only; split <;> simp
@[simp] theorem afterDeserializer_tx (s : State) (h : HostWrite) : (afterDeserializer s h).tx = s.tx := by
  unfold afterDeserializer; dsimp only; split <;> simp
@[simp] theorem afterDeserializer_sqr (s : State) (h : HostWrite) : (afterDeserializer s h).sqr = s.sqr := by
  unfold afterDeserializer; dsimp only; split <;> simp
@[simp] theorem afterDeserializer_regs (s : State) (h : HostWrite) : (afterDeserializer s h).regs = s.regs := by
  unfold afterDeserializer; dsimp only; split <;> simp
@[simp] theorem afterDeserializer_fifo_mem (s : State) (h : HostWrite) :
    (afterDeserializer s h).fifo.mem = (afterIngress s).fifo.mem := by
  unfold afterDeserializer; dsimp only; split <;> simp
@[simp] theorem afterDeserializer_fifo_wr (s : State) (h : HostWrite) :
    (afterDeserializer s h).fifo.wr = (afterIngress s).fifo.wr := by
  unfold afterDeserializer; dsimp only; split <;> simp

theorem afterDeserializer_fifo_rd (s : State) (h : HostWrite) : (afterDeserializer s h).fifo.rd =
    if pops s h = true then s.fifo.nextRd s.params.fifoDepth else s.fifo.rd := by
  unfold afterDeserializer; dsimp only; split <;> simp

theorem afterDeserializer_rx (s : State) (h : HostWrite) : (afterDeserializer s h).rx =
    if pops s h = true then s.rx.consume s.params.payloadCap (s.fifo.head s.params.fifoDepth) else s.rx := by
  unfold afterDeserializer; dsimp only; split <;> simp

theorem pops_iff (s : State) (h : HostWrite) :
    pops s h = true ↔ rxAffecting s h = false ∧ s.rx.phase ≠ .ready ∧ s.fifoCount ≠ 0 := by
  simp [pops, and_assoc]

theorem pops_none (s : State) : pops s .none = true ↔ s.rx.phase ≠ .ready ∧ s.fifoCount ≠ 0 := by
  simp [pops_iff, rxAffecting]

/-! ### Phase 4, sequencer: only the sequencer, and RxReset of the receive unit -/

/-- Everything a sequencer step can do, by the state of the sequencer (43_controller.md R230 to R232). -/
theorem seqStep_cases (s t : State) (txReady : Bool) :
    (s.sqr.seq = .sending ∧ txReady = false ∧ seqStep s t txReady = t) ∨
    (s.sqr.seq = .sending ∧ txReady = true ∧ s.sqr.txIdx + 1#9 = s.tx.len.zeroExtend 9 + 4#9 ∧
      seqStep s t txReady = { t with sqr := { t.sqr with txIdx := s.sqr.txIdx + 1#9, seq := .guard, gcnt := 0#32 } }) ∨
    (s.sqr.seq = .sending ∧ txReady = true ∧ s.sqr.txIdx + 1#9 ≠ s.tx.len.zeroExtend 9 + 4#9 ∧
      seqStep s t txReady = { t with sqr := { t.sqr with txIdx := s.sqr.txIdx + 1#9 } }) ∨
    (s.sqr.seq = .guard ∧ s.sqr.gcnt = s.regs.guard ∧ s.sqr.mode = true ∧
      seqStep s t txReady = { t with sqr := { t.sqr with seq := .await, tmr := 0#32 }, rx := t.rx.reset }) ∨
    (s.sqr.seq = .guard ∧ s.sqr.gcnt = s.regs.guard ∧ s.sqr.mode = false ∧
      seqStep s t txReady = { t with sqr := { t.sqr with seq := .idle } }) ∨
    (s.sqr.seq = .guard ∧ s.sqr.gcnt ≠ s.regs.guard ∧
      seqStep s t txReady = { t with sqr := { t.sqr with gcnt := s.sqr.gcnt + 1#32 } }) ∨
    (s.sqr.seq = .await ∧ t.rx.phase = .ready ∧
      seqStep s t txReady = { t with sqr := { t.sqr with seq := .complete } }) ∨
    (s.sqr.seq = .await ∧ t.rx.phase ≠ .ready ∧ s.sqr.tmr = s.regs.timeout ∧
      seqStep s t txReady = { t with sqr := { t.sqr with seq := .timedOut }, rx := t.rx.reset }) ∨
    (s.sqr.seq = .await ∧ t.rx.phase ≠ .ready ∧ s.sqr.tmr ≠ s.regs.timeout ∧
      seqStep s t txReady = { t with sqr := { t.sqr with tmr := s.sqr.tmr + 1#32 } }) ∨
    ((s.sqr.seq = .idle ∨ s.sqr.seq = .complete ∨ s.sqr.seq = .timedOut) ∧ seqStep s t txReady = t) := by
  unfold seqStep
  cases hs : s.sqr.seq with
  | sending =>
    unfold sendStep
    by_cases h : s.sqr.txIdx + 1#9 = s.tx.len.zeroExtend 9 + 4#9 <;> cases txReady <;> simp [h]
  | guard =>
    unfold guardStep
    by_cases h : s.sqr.gcnt = s.regs.guard <;> cases s.sqr.mode <;> simp [h]
  | await =>
    unfold awaitStep
    by_cases h : t.rx.phase = .ready <;> by_cases h' : s.sqr.tmr = s.regs.timeout <;> simp [h, h']
  | idle | complete | timedOut => simp

/-- The sequencer leaves everything but its own state and the receive unit. -/
theorem seqStep_frame (s t : State) (txReady : Bool) :
    (seqStep s t txReady).params = t.params ∧ (seqStep s t txReady).inputs = t.inputs ∧
    (seqStep s t txReady).cycle = t.cycle ∧ (seqStep s t txReady).tx = t.tx ∧
    (seqStep s t txReady).fifo = t.fifo ∧ (seqStep s t txReady).regs = t.regs := by
  rcases seqStep_cases s t txReady with h | h | h | h | h | h | h | h | h | h <;>
    obtain ⟨-, h⟩ := h <;> (try obtain ⟨-, h⟩ := h) <;> (try obtain ⟨-, h⟩ := h) <;> rw [h] <;> simp

/-- While not BUSY the sequencer does nothing (10_state.md R45, R49). -/
theorem seqStep_of_not_busy {s : State} (hb : s.busy = false) (t : State) (txReady : Bool) :
    seqStep s t txReady = t := by
  unfold seqStep State.busy at *
  cases hs : s.sqr.seq <;> simp_all

@[simp] theorem afterSequencer_params (s : State) (h : HostWrite) : (afterSequencer s h).params = s.params := by
  unfold afterSequencer; split <;> simp [seqStep_frame]
@[simp] theorem afterSequencer_inputs (s : State) (h : HostWrite) : (afterSequencer s h).inputs = s.inputs := by
  unfold afterSequencer; split <;> simp [seqStep_frame]
@[simp] theorem afterSequencer_cycle (s : State) (h : HostWrite) : (afterSequencer s h).cycle = s.cycle := by
  unfold afterSequencer; split <;> simp [seqStep_frame]
@[simp] theorem afterSequencer_tx (s : State) (h : HostWrite) : (afterSequencer s h).tx = s.tx := by
  unfold afterSequencer; split <;> simp [seqStep_frame]
@[simp] theorem afterSequencer_regs (s : State) (h : HostWrite) : (afterSequencer s h).regs = s.regs := by
  unfold afterSequencer; split <;> simp [seqStep_frame]
@[simp] theorem afterSequencer_fifo (s : State) (h : HostWrite) :
    (afterSequencer s h).fifo = (afterDeserializer s h).fifo := by
  unfold afterSequencer; split <;> simp [seqStep_frame]

/-- While not BUSY phase 4 changes nothing. -/
theorem afterSequencer_of_not_busy {s : State} (hb : s.busy = false) (h : HostWrite) :
    afterSequencer s h = afterDeserializer s h := by
  unfold afterSequencer; rw [seqStep_of_not_busy hb]; split <;> rfl

/-! ### Phases 5 and 6 -/

theorem afterHost_none (s : State) : afterHost s .none = afterSequencer s .none := rfl
theorem afterHost_refused (s : State) (e : ErrCode) : afterHost s (.refused e) = afterSequencer s (.refused e) := rfl

/-- A refused write leaves phases 2 to 5 exactly as in a cycle with no write (60_exceptions.md R272). -/
theorem afterSequencer_refused (s : State) (e : ErrCode) : afterSequencer s (.refused e) = afterSequencer s .none := rfl

theorem afterDeserializer_refused (s : State) (e : ErrCode) :
    afterDeserializer s (.refused e) = afterDeserializer s .none := rfl

/-- The events at their positions (20_memory.md R66). -/
theorem Events.getLsbD_bits (e : Events) :
    e.bits.getLsbD 0 = e.done ∧ e.bits.getLsbD 1 = e.timeout ∧ e.bits.getLsbD 2 = e.txDone ∧
      e.bits.getLsbD 3 = e.rxRdy ∧ e.bits.getLsbD 4 = e.cmdErr := by
  obtain ⟨a, b, c, d, f⟩ := e
  cases a <;> cases b <;> cases c <;> cases d <;> cases f <;> decide

/-- A refusal is the cycle with no host write, with CMDERR set and the code in ERR, and nothing else
(60_exceptions.md R272). -/
theorem runCycle_refused (s : State) (e : ErrCode) :
    runCycle s (.refused e) = withRefusal e (quietCycle s) := by
  have hbits : ∀ v : Events, Events.bits { v with cmdErr := true } = Events.bits { v with cmdErr := false } ||| 0x10#5 := by
    rintro ⟨a, b, c, d, f⟩
    cases a <;> cases b <;> cases c <;> cases d <;> cases f <;> decide
  have hE : cycleEvents s (.refused e) = { cycleEvents s .none with cmdErr := true } := rfl
  have hN : cycleEvents s .none = { cycleEvents s .none with cmdErr := false } := rfl
  unfold quietCycle runCycle withRefusal
  have hS : nextStatus s (.refused e) (cycleEvents s (.refused e)) =
      nextStatus s .none (cycleEvents s .none) ||| 0x10#5 := by
    unfold nextStatus
    rw [hE, hbits, ← hN, BitVec.or_assoc]
    rfl
  simp only [updateStatus, State.tick]
  rw [hS]
  rfl

/-- A STATUS bit after a cycle (10_state.md R47): kept unless the host clears it, set by its event. -/
theorem nextStatus_getLsbD (s : State) (h : HostWrite) (e : Events) {i : Nat} (hi : i < 5) :
    (nextStatus s h e).getLsbD i = ((s.regs.status.getLsbD i && !h.w1cMask.getLsbD i) || e.bits.getLsbD i) := by
  rw [nextStatus, BitVec.getLsbD_or, BitVec.getLsbD_and, BitVec.getLsbD_not]
  simp [hi]

/-- No event and no host clear: STATUS keeps its value. -/
theorem nextStatus_of_quiet {s : State} {h : HostWrite} {e : Events} (hw : h.w1cMask = 0#5) (he : e.bits = 0#5) :
    nextStatus s h e = s.regs.status := by
  apply BitVec.eq_of_getLsbD_eq
  intro i hi
  rw [nextStatus_getLsbD _ _ _ hi, hw, he]
  simp

theorem runCycle_status (s : State) (h : HostWrite) :
    (runCycle s h).regs.status = nextStatus s h (cycleEvents s h) := rfl

theorem runCycle_err (s : State) (h : HostWrite) : (runCycle s h).regs.err = nextErr s h := rfl

/-! ### The cycle with no host write -/

@[simp] theorem quietCycle_params (s : State) : (quietCycle s).params = s.params := by
  simp [quietCycle, runCycle, afterHost]
@[simp] theorem quietCycle_inputs (s : State) : (quietCycle s).inputs = s.inputs.tail := by
  simp [quietCycle, runCycle, afterHost]
@[simp] theorem quietCycle_cycle (s : State) : (quietCycle s).cycle = s.cycle + 1 := by
  simp [quietCycle, runCycle, afterHost]
@[simp] theorem quietCycle_tx (s : State) : (quietCycle s).tx = s.tx := by simp [quietCycle, runCycle, afterHost]
@[simp] theorem quietCycle_rx (s : State) : (quietCycle s).rx = (afterSequencer s .none).rx := by
  simp [quietCycle, runCycle, afterHost]
@[simp] theorem quietCycle_fifo (s : State) : (quietCycle s).fifo = (afterDeserializer s .none).fifo := by
  simp [quietCycle, runCycle, afterHost]
@[simp] theorem quietCycle_sqr (s : State) : (quietCycle s).sqr = (afterSequencer s .none).sqr := by
  simp [quietCycle, runCycle, afterHost]
@[simp] theorem quietCycle_regs (s : State) : (quietCycle s).regs =
    { s.regs with status := nextStatus s .none (cycleEvents s .none) } := by
  simp [quietCycle, runCycle, afterHost, updateStatus, State.tick, nextErr, HostWrite.w1cMask]

/-! ### Accepted commands and register writes -/

/-- A command that passes its checks applies its effect in phase 5 (10_state.md R46). -/
theorem commandCycle_accepted {s : State} {c : Instr} {checks : List (Option ErrCode)}
    {effect : State → State → State} (h : firstFailure checks = none) :
    commandCycle s c checks effect = runCycle s (.cmd c effect) := by
  simp [commandCycle, h, acceptOrRefuse]

/-- A command that fails a check is the cycle with no host write and the refusal recorded (60_exceptions.md R272). -/
theorem commandCycle_refused {s : State} {c : Instr} {checks : List (Option ErrCode)}
    {effect : State → State → State} {e : ErrCode} (h : firstFailure checks = some e) :
    commandCycle s c checks effect = withRefusal e (quietCycle s) := by
  simp [commandCycle, h, acceptOrRefuse, raiseCmdError, runCycle_refused]

/-- A command whose effect is not RX-affecting runs phases 2 to 4 as a cycle with no host write does. -/
theorem afterDeserializer_of_not_rxAffecting {s : State} {h : HostWrite} (hr : rxAffecting s h = false) :
    afterDeserializer s h = afterDeserializer s .none := by
  have hn : rxAffecting s .none = false := rfl
  have hp : pops s h = pops s .none := by simp [pops, hr, hn]
  simp [afterDeserializer, hp]

/-- An RX-affecting command suppresses phase 3 (10_state.md R44). -/
theorem afterDeserializer_of_rxAffecting {s : State} {h : HostWrite} (hr : rxAffecting s h = true) :
    afterDeserializer s h = afterIngress s := by
  have hp : pops s h = false := by simp [pops, hr]
  simp [afterDeserializer, hp]

theorem afterSequencer_of_not_rxAffecting {s : State} {h : HostWrite} (hr : rxAffecting s h = false)
    (ha : abortsAwait s h = false) : afterSequencer s h = afterSequencer s .none := by
  have hn : abortsAwait s .none = false := rfl
  simp only [afterSequencer, ha, hn, afterDeserializer_of_not_rxAffecting hr]

/-- The state after a cycle with an accepted command. -/
theorem runCycle_cmd (s : State) (c : Instr) (effect : State → State → State) :
    runCycle s (.cmd c effect) =
      (updateStatus s (.cmd c effect) (cycleEvents s (.cmd c effect))
        (effect s (afterSequencer s (.cmd c effect)))).tick := rfl

theorem nextErr_cmd (s : State) (c : Instr) (effect : State → State → State) :
    nextErr s (.cmd c effect) = s.regs.err := by simp [nextErr, HostWrite.w1cMask]

/-- No event of phases 3 and 4 and no refusal: no event bit. -/
theorem cycleEvents_bits_of_quiet {s : State} {h : HostWrite} (hrx : (afterDeserializer s h).rx = s.rx)
    (hsq : (afterSequencer s h).sqr.seq = s.sqr.seq) (hr : h.isRefused = false) : (cycleEvents s h).bits = 0#5 := by
  have hg : ¬ (s.sqr.seq = .guard ∧ (afterSequencer s h).sqr.seq ≠ .guard) := by
    rw [hsq]; exact fun ⟨a, b⟩ => b a
  have hd : ¬ (s.sqr.seq ≠ .complete ∧ (afterSequencer s h).sqr.seq = .complete) := by
    rw [hsq]; exact fun ⟨a, b⟩ => a b
  have ht : ¬ (s.sqr.seq ≠ .timedOut ∧ (afterSequencer s h).sqr.seq = .timedOut) := by
    rw [hsq]; exact fun ⟨a, b⟩ => a b
  have hx : ¬ (s.rx.phase ≠ .ready ∧ (afterDeserializer s h).rx.phase = .ready) := by
    rw [hrx]; exact fun ⟨a, b⟩ => a b
  simp only [cycleEvents, eventsOf, Events.bits, hg, hd, ht, hx, hr]
  decide

end Sys2Proof.Machine
end

