-- ==== Sys2Proof/Laws/Step.lean ====
section
/-! SUPPORT. What one step can do, said once: the classified host write it runs the cycle with, and what every accepted
effect leaves alone. -/

namespace Sys2Proof.Machine

open Sys2Proof

/-! ### Accepted register writes -/

/-- A register write touches only operand, control and TX packet registers; TX_CS is not writable (20_memory.md R63). -/
theorem Reg.store_frame (r : Reg) (v : Byte) (t : State) :
    (r.store v t).params = t.params ∧ (r.store v t).inputs = t.inputs ∧ (r.store v t).cycle = t.cycle ∧
    (r.store v t).rx = t.rx ∧ (r.store v t).fifo = t.fifo ∧ (r.store v t).sqr = t.sqr ∧
    (r.store v t).regs.status = t.regs.status ∧ (r.store v t).regs.err = t.regs.err ∧
    (r.store v t).tx.cs = t.tx.cs := by
  cases r <;> simp [Reg.store]

/-- A register that is not locked is outside the TX packet, TIMEOUT and GUARD (20_memory.md R64). -/
theorem Reg.store_of_not_locked {r : Reg} (h : r.access ≠ .readWriteLocked) (v : Byte) (t : State) :
    (r.store v t).tx = t.tx ∧ (r.store v t).regs.timeout = t.regs.timeout ∧ (r.store v t).regs.guard = t.regs.guard := by
  cases r <;> simp_all [Reg.store, Reg.access]

/-- Everything a register write of a cycle can be (10_state.md R42; 20_memory.md R63, R64). -/
theorem classifyWrite_cases (s : State) (r : Reg) (v : Byte) :
    ((r.access = .writeOnly ∨ r.access = .readOnly ∨ r.access = .reserved) ∧ classifyWrite s r v = .none) ∨
    (r.access = .readWriteLocked ∧ s.busy = true ∧ classifyWrite s r v = .refused .busy) ∨
    (r.access = .w1c ∧ classifyWrite s r v = .reg (v.truncate 5) fun _ t => t) ∨
    ((r.access = .readWrite ∨ r.access = .readWriteLocked ∧ s.busy = false) ∧
      classifyWrite s r v = .reg 0#5 fun _ t => r.store v t) := by
  unfold classifyWrite raiseCmdError
  cases hr : r.access <;> cases hb : s.busy <;> simp

/-! ### The step by its host write -/

/-- What the host's write of a cycle can come to (10_state.md R42): the effect of every accepted command with what its
acceptance checked. -/
inductive IsHostWrite (s : State) : HostWrite → Prop where
  | none : IsHostWrite s .none
  | refused (e : ErrCode) : IsHostWrite s (.refused e)
  | status (w : BitVec 5) : fetchCommand s.input = none → IsHostWrite s (.reg w fun _ t => t)
  | store (r : Reg) (v : Byte) : fetchCommand s.input = none →
      r.access = .readWrite ∨ r.access = .readWriteLocked ∧ s.busy = false →
      r = regAt s.params s.input.busAddr → v = s.input.busWdata →
      IsHostWrite s (.reg 0#5 fun _ t => r.store v t)
  | nop : fetchCommand s.input = some 0x00#8 → IsHostWrite s (.cmd .nop fun _ t => t)
  | rxReset : fetchCommand s.input = some 0x01#8 → IsHostWrite s (.cmd .rxReset fun _ t => { t with rx := t.rx.reset })
  | fifoFlush : fetchCommand s.input = some 0x02#8 →
      IsHostWrite s (.cmd .fifoFlush fun _ t => { t with fifo := t.fifo.flush })
  | setChecksum : fetchCommand s.input = some 0x03#8 → s.busy = false → txLenCheck s = .none →
      IsHostWrite s (.cmd .setChecksum setChecksumEffect)
  | buildRead : fetchCommand s.input = some 0x04#8 → s.busy = false → countCheck s = .none →
      IsHostWrite s (.cmd .buildRead fun s t => { t with tx := readPacket s })
  | buildWrite8 : fetchCommand s.input = some 0x05#8 → s.busy = false →
      IsHostWrite s (.cmd .buildWrite8 fun s t => { t with tx := write8Packet s })
  | buildWrite16 : fetchCommand s.input = some 0x06#8 → s.busy = false →
      IsHostWrite s (.cmd .buildWrite16 fun s t => { t with tx := write16Packet s })
  | send : fetchCommand s.input = some 0x07#8 → s.busy = false → txLenCheck s = .none →
      IsHostWrite s (.cmd .send fun s t => startSending false s.tx.sealed t)
  | transact : fetchCommand s.input = some 0x08#8 → s.busy = false → txLenCheck s = .none →
      IsHostWrite s (.cmd .transact fun s t => startSending true s.tx.sealed t)
  | receive : fetchCommand s.input = some 0x09#8 → s.busy = false →
      IsHostWrite s (.cmd .receive fun _ t => startReceiving t)
  | abort : fetchCommand s.input = some 0x0A#8 → IsHostWrite s (.cmd .abort abortEffect)
  | readReg : fetchCommand s.input = some 0x0B#8 → s.busy = false → countCheck s = .none →
      IsHostWrite s (.cmd .readReg fun s t => startSending true (readPacket s) t)
  | writeReg8 : fetchCommand s.input = some 0x0C#8 → s.busy = false →
      IsHostWrite s (.cmd .writeReg8 fun s t => startSending false (write8Packet s) t)
  | writeReg16 : fetchCommand s.input = some 0x0D#8 → s.busy = false →
      IsHostWrite s (.cmd .writeReg16 fun s t => startSending false (write16Packet s) t)

theorem busyCheck_eq_none {s : State} : busyCheck s = .none ↔ s.busy = false := by
  unfold busyCheck; cases s.busy <;> simp

theorem countCheck_eq_none {s : State} : countCheck s = .none ↔ s.regs.arg1.toNat ≤ s.params.payloadCap := by
  unfold countCheck State.countOperand; split <;> simp <;> omega

theorem txLenCheck_eq_none {s : State} :
    txLenCheck s = .none ↔ 2 ≤ s.tx.len.toNat ∧ s.tx.len.toNat ≤ s.params.payloadCap + 2 := by
  unfold txLenCheck; split
  · simp; omega
  · split <;> simp <;> omega

theorem firstFailure_cons_none (l : List (Option ErrCode)) : firstFailure (none :: l) = firstFailure l := rfl
theorem firstFailure_cons_some (e : ErrCode) (l : List (Option ErrCode)) : firstFailure (some e :: l) = some e := rfl

theorem firstFailure_eq_none : ∀ {l : List (Option ErrCode)}, firstFailure l = none ↔ ∀ x ∈ l, x = none
  | [] => by simp [firstFailure]
  | some e :: l => by simp [firstFailure]
  | none :: l => by simp [firstFailure, firstFailure_eq_none (l := l)]

theorem decodeByte_code : ∀ b : Byte, (decodeByte b).code = b := by decide

/-- A command's cycle runs with a refusal or with its accepted effect. -/
theorem commandCycle_cases (s : State) (c : Instr) (checks : List (Option ErrCode))
    (effect : State → State → State) :
    (∃ e, commandCycle s c checks effect = runCycle s (.refused e)) ∨
    ((∀ x ∈ checks, x = none) ∧ commandCycle s c checks effect = runCycle s (.cmd c effect)) := by
  cases h : firstFailure checks with
  | none => exact .inr ⟨firstFailure_eq_none.mp h, commandCycle_accepted h⟩
  | some e => exact .inl ⟨e, by rw [commandCycle_refused h, runCycle_refused]⟩

/-- Everything `exec` of a written command byte can do. -/
theorem exec_cases {s : State} {b : Byte} (hb : fetchCommand s.input = some b) :
    ∃ h, IsHostWrite s h ∧ exec (decodeByte b) s = .next (runCycle s h) := by
  have hc := decodeByte_code b
  cases hd : decodeByte b <;> rw [hd] at hc <;> simp only [Instr.code] at hc <;> subst hc <;>
    simp only [exec]
  all_goals
    rcases commandCycle_cases s _ _ _ with ⟨e, h⟩ | ⟨hk, h⟩
    · exact ⟨_, .refused e, congrArg Host.Outcome.next h⟩
    · refine ⟨_, ?_, congrArg Host.Outcome.next h⟩
      first
      | (exfalso; simp at hk; done)
      | (simp only [List.mem_cons, List.not_mem_nil, or_false, forall_eq_or_imp, forall_eq, busyCheck_eq_none] at hk
         constructor <;> first | exact hb | exact hk | exact hk.1 | exact hk.2)

/-- Everything a step can do: reset, or a cycle with one of the host writes above. -/
theorem step_cases {s t : State} (h : step s = .next t) :
    (s.input.rst = true ∧ t = resetCycle s) ∨
    (s.input.rst = false ∧ ∃ w, IsHostWrite s w ∧ t = runCycle s w) := by
  unfold step at h
  cases hr : s.input.rst with
  | true => simp [hr] at h; exact .inl ⟨rfl, h.symm⟩
  | false =>
    refine .inr ⟨rfl, ?_⟩
    simp only [hr, Bool.false_eq_true, if_false] at h
    cases hf : fetchCommand s.input with
    | some b =>
      obtain ⟨w, hw, he⟩ := exec_cases hf
      rw [hf] at h; simp only [he, Host.Outcome.next.injEq] at h
      exact ⟨w, hw, h.symm⟩
    | none =>
      rw [hf] at h; simp only [Host.Outcome.next.injEq] at h
      refine ⟨_, ?_, h.symm⟩
      unfold registerWrite
      split
      · rcases classifyWrite_cases s (regAt s.params s.input.busAddr) s.input.busWdata with
          ⟨-, h⟩ | ⟨-, -, h⟩ | ⟨-, h⟩ | ⟨ha, h⟩ <;> rw [h]
        · exact .none
        · exact .refused _
        · exact .status _ hf
        · exact .store _ _ hf ha rfl rfl
      · exact .none

/-- A register write clears STATUS bits only at the STATUS address, and there the written ones (20_memory.md R63, R66). -/
theorem registerWrite_w1cMask (s : State) : (registerWrite s).w1cMask =
    if s.input.busWe = true ∧ s.input.busAddr = 0x001#10 then s.input.busWdata.extractLsb' 0 5 else 0#5 := by
  unfold registerWrite
  cases hw : s.input.busWe with
  | false => simp [HostWrite.w1cMask]
  | true =>
    by_cases ha : s.input.busAddr = 0x001#10
    · simp only [ha, and_self, if_true]
      show s.input.busWdata.setWidth 5 = _
      exact BitVec.eq_of_toNat_eq (by simp)
    · have hr : (regAt s.params s.input.busAddr).access ≠ .w1c := regAt_access_ne_w1c ha
      rcases classifyWrite_cases s (regAt s.params s.input.busAddr) s.input.busWdata with
        ⟨-, h⟩ | ⟨-, -, h⟩ | ⟨h, -⟩ | ⟨-, h⟩
      · simp [h, ha, HostWrite.w1cMask]
      · simp [h, ha, HostWrite.w1cMask]
      · exact absurd h hr
      · simp [h, ha, HostWrite.w1cMask]

/-- A command clears no STATUS bit (10_state.md R47). -/
theorem exec_eq_runCycle (i : Instr) (s : State) :
    ∃ h, exec i s = .next (runCycle s h) ∧ h.w1cMask = 0#5 := by
  cases i <;> simp only [exec]
  all_goals
    rcases commandCycle_cases s _ _ _ with ⟨e, h⟩ | ⟨-, h⟩ <;>
      exact ⟨_, congrArg Host.Outcome.next h, rfl⟩

/-- A cycle whose pop is suppressed and which the ABORT of a response wait does not end raises at most the event of a guard
end or of a timeout (20_memory.md R66; 43_controller.md R231, R232). -/
theorem cycleEvents_bits_of_rxAffecting {s : State} {h : HostWrite} (hr : rxAffecting s h = true)
    (ha : abortsAwait s h = false) (he : h.isRefused = false) (hi : s.sqr.seq = .await → s.rx.phase ≠ .ready) :
    (cycleEvents s h).bits = guardOrTimeoutEvent s := by
  have hd := afterDeserializer_of_rxAffecting hr
  have hs : afterSequencer s h = seqStep s (afterIngress s) s.input.txReady := by simp [afterSequencer, ha, hd]
  simp only [cycleEvents, eventsOf, Events.bits, guardOrTimeoutEvent, hd, hs, he]
  rcases seqStep_cases s (afterIngress s) s.input.txReady with
    ⟨h, -, e⟩ | ⟨h, -, -, e⟩ | ⟨h, -, -, e⟩ | ⟨h, g, -, e⟩ | ⟨h, g, -, e⟩ | ⟨h, g, e⟩ | ⟨h, g, -⟩ | ⟨h, -, g, e⟩ |
    ⟨h, -, g, e⟩ | ⟨h, e⟩
  case inr.inr.inr.inr.inr.inr.inl => exact absurd (by simpa using g) (hi h)
  case inr.inr.inr.inr.inr.inr.inr.inr.inr => rcases h with h | h | h <;> simp [h, e]
  all_goals simp_all

/-- A step always answers a next state (60_exceptions.md R292). -/
theorem step_total (s : State) : ∃ t, step s = .next t := by
  unfold step
  split
  · exact ⟨_, rfl⟩
  · split
    · rename_i b hb
      obtain ⟨w, -, h⟩ := exec_cases hb
      exact ⟨_, h⟩
    · exact ⟨_, rfl⟩

theorem step_of_no_write {s : State} (hr : s.input.rst = false) (hw : s.input.busWe = false) :
    step s = .next (quietCycle s) := by
  simp [step, hr, fetchCommand, hw, registerWrite, quietCycle]

theorem step_of_no_command {s : State} (hr : s.input.rst = false) (hf : fetchCommand s.input = none) :
    step s = .next (runCycle s (registerWrite s)) := by
  simp [step, hr, hf]

theorem fetchCommand_of_addr {i : CycleInput} (h : i.busAddr.toNat ≠ 0) : fetchCommand i = none := by
  unfold fetchCommand
  rw [if_neg]
  rintro ⟨-, h'⟩
  simp [h'] at h

theorem step_of_register_write {s : State} (hr : s.input.rst = false) (hw : s.input.busWe = true)
    (ha : s.input.busAddr.toNat ≠ 0) :
    step s = .next (runCycle s (classifyWrite s (regAt s.params s.input.busAddr) s.input.busWdata)) := by
  rw [step_of_no_command hr (fetchCommand_of_addr ha)]
  simp [registerWrite, hw]

/-- The clock's bookkeeping under every host write. -/
theorem runCycle_clock {s : State} {h : HostWrite} (hw : IsHostWrite s h) : clockAdvanced s (runCycle s h) := by
  cases hw <;> simp [clockAdvanced, runCycle, afterHost, Reg.store_frame, setChecksumEffect, startSending,
    startReceiving, abortEffect]
  all_goals try split <;> simp

theorem abortEffect_of_await {s : State} (h : s.sqr.seq = .await) (t : State) :
    abortEffect s t = { t with sqr := { t.sqr with seq := .idle }, rx := t.rx.reset } := by simp [abortEffect, h]

theorem abortEffect_of_not_await {s : State} (h : s.sqr.seq ≠ .await) (t : State) : abortEffect s t = t := by
  simp [abortEffect, h]

/-- While BUSY only an ABORT of a response wait writes the sequencer in phase 5, and nothing writes the TX packet, TIMEOUT
or GUARD (20_memory.md R64; 60_exceptions.md R275). -/
theorem runCycle_of_busy {s : State} {h : HostWrite} (hw : IsHostWrite s h) (hb : s.busy = true) :
    (runCycle s h).tx = s.tx ∧ (runCycle s h).regs.timeout = s.regs.timeout ∧
    (runCycle s h).regs.guard = s.regs.guard ∧
    (abortsAwait s h = false → (runCycle s h).sqr = (seqStep s (afterDeserializer s h) s.input.txReady).sqr) := by
  have hs : abortsAwait s h = false →
      (afterSequencer s h).sqr = (seqStep s (afterDeserializer s h) s.input.txReady).sqr := by
    intro ha; simp [afterSequencer, ha]
  cases hw <;> simp_all [runCycle, afterHost]
  case store r v hf ha _ _ =>
    have hl : (regAt s.params s.input.busAddr).access ≠ .readWriteLocked := by rw [ha]; simp
    simp [Reg.store_of_not_locked hl, Reg.store_frame]
    exact hs
  case abort hf =>
    by_cases hq : s.sqr.seq = .await
    · simp_all [abortEffect_of_await hq, abortsAwait]
    · simp_all [abortEffect_of_not_await hq]

/-- The receive unit after a cycle: phase 5 changes it only with RxReset (10_state.md R46). -/
theorem runCycle_rx {s : State} {h : HostWrite} (hw : IsHostWrite s h) :
    (runCycle s h).rx = (afterSequencer s h).rx ∨ (runCycle s h).rx = (afterSequencer s h).rx.reset := by
  cases hw <;> simp [runCycle, afterHost, Reg.store_frame, setChecksumEffect, startSending, startReceiving]
  case abort hf => unfold abortEffect; split <;> simp

end Sys2Proof.Machine
end

