-- ==== Sys2Proof/Laws/Runs.lean ====
section
/-! SUPPORT. Runs of several cycles, taken apart at their end. -/

namespace Sys2Proof.Machine

open Sys2Proof

theorem stateAfter_of_step {s t : State} (h : step s = .next t) (k : Nat) :
    stateAfter (k + 1) s = stateAfter k t := by simp [stateAfter, h]

theorem stateAfter_succ (k : Nat) (s : State) : stateAfter (k + 1) s = stateAfter 1 (stateAfter k s) := by
  induction k generalizing s with
  | zero => rfl
  | succ k ih =>
    obtain ⟨t, h⟩ := step_total s
    rw [stateAfter_of_step h, ih, ← stateAfter_of_step h]

/-- The last cycle of a run. -/
theorem stateAfter_succ_of_step {k : Nat} {s t : State} (h : step (stateAfter k s) = .next t) :
    stateAfter (k + 1) s = t := by
  rw [stateAfter_succ, stateAfter_of_step h]; rfl

/-- The last cycle's byte is the last one sent. -/
theorem sentBytes_succ (k : Nat) (s : State) :
    sentBytes (k + 1) s = sentBytes k s ++ (handshake (stateAfter k s)).toList := by
  induction k generalizing s with
  | zero => simp [sentBytes, stateAfter]
  | succ k ih =>
    obtain ⟨t, h⟩ := step_total s
    rw [sentBytes, ih, sentBytes, List.append_assoc, stateAfter_of_step h k, stateAfter_of_step h 0]
    rfl

end Sys2Proof.Machine
end

