-- ==== Sys2Proof/Tests/Slice0.lean ====
section
/-! SUPPORT. Small tests: the well-formedness check, every command's word, one step of each command with expected values from
the vectors of 95_test_vectors.md, and for each obligation with hypotheses a concrete state or operands that meet them. -/

namespace Sys2Proof.Tests

open Sys2Proof Sys2Proof.Machine

/-! ### WellFormed: the one check, on both sides of its boundary -/

theorem test_wf_refuses_reserved_below : (Instr.reserved 0x0D).wf = false := by decide
theorem test_wf_refuses_reserved_zero : (Instr.reserved 0x00).wf = false := by decide
theorem test_wf_accepts_reserved : (Instr.reserved 0x0E).wf = true ∧ (Instr.reserved 0xFF).wf = true := by decide

/-! ### Decode: each code of 30_encoding.md R110 written out bit by bit -/

theorem test_decode_nop : decode [0b00000000] = .ok (.nop, []) := by rfl
theorem test_decode_rxReset : decode [0b00000001] = .ok (.rxReset, []) := by rfl
theorem test_decode_fifoFlush : decode [0b00000010] = .ok (.fifoFlush, []) := by rfl
theorem test_decode_setChecksum : decode [0b00000011] = .ok (.setChecksum, []) := by rfl
theorem test_decode_buildRead : decode [0b00000100] = .ok (.buildRead, []) := by rfl
theorem test_decode_buildWrite8 : decode [0b00000101] = .ok (.buildWrite8, []) := by rfl
theorem test_decode_buildWrite16 : decode [0b00000110] = .ok (.buildWrite16, []) := by rfl
theorem test_decode_send : decode [0b00000111] = .ok (.send, []) := by rfl
theorem test_decode_transact : decode [0b00001000] = .ok (.transact, []) := by rfl
theorem test_decode_receive : decode [0b00001001] = .ok (.receive, []) := by rfl
theorem test_decode_abort : decode [0b00001010] = .ok (.abort, []) := by rfl
theorem test_decode_readReg : decode [0b00001011] = .ok (.readReg, []) := by rfl
theorem test_decode_writeReg8 : decode [0b00001100] = .ok (.writeReg8, []) := by rfl
theorem test_decode_writeReg16 : decode [0b00001101] = .ok (.writeReg16, []) := by rfl
theorem test_decode_reserved : decode [0b00001110] = .ok (.reserved 0x0E, []) := by rfl
theorem test_decode_reserved_top : decode [0b11111111] = .ok (.reserved 0xFF, []) := by rfl
/-- R115: no prefix and no second byte, so the byte after a command is the next command. -/
theorem test_decode_one_byte : decode [0x07, 0x0E] = .ok (.send, [0x0E]) := by rfl
theorem test_decode_empty : decode [] = .error .noByte := by rfl

/-! ### Commands: one step each -/

/-- The next state of an outcome. -/
def nextOf : Host.Outcome State Fault Refusal → Option State
  | .next s => some s
  | .fault _ | .refused _ => none

/-- A state for one test: the drive of the coming cycle. -/
def driven (i : CycleInput) (s : State) : State := { s with inputs := [i] }

/-- The drive of a host write. -/
def writes (a : Addr) (v : Byte) : CycleInput := { busWe := true, busAddr := a, busWdata := v }

/-- Operands of the builder vectors B1 to B6. -/
def withArgs (id a0 a1 a2 : Byte) : State :=
  { State.reset with inputs := [{}], tx := { id := id }, regs := { arg0 := a0, arg1 := a1, arg2 := a2 } }

/-- A sealed packet in transmission, a guard interval, a response wait. -/
def inSeq (q : SeqState) : State := { State.reset with inputs := [{}], sqr := { seq := q } }

/-- 42_monitor.md R179's example, vector M12: the pop of the cycle is suppressed. -/
theorem test_rxReset_in_payload :
    ((nextOf (exec .rxReset { State.reset with
        inputs := [{}], rx := { phase := .payload, pos := 3, len := 8 }, fifo := { wr := 5 } })).map fun t =>
      (t.rx.phase, t.rx.pos, t.rx.len, t.fifoCount)) = some (.header1, 0, 8, 5) := by decide

/-- Vector Q5: a byte arriving in the flush cycle is flushed too. -/
theorem test_fifoFlush_q5 :
    ((nextOf (exec .fifoFlush { State.reset with
        inputs := [{ rxValid := true, rxData := 0x77 }], fifo := { wr := 5, rd := 2 } })).map fun t =>
      (t.fifo.wr, t.fifo.rd, t.fifoCount, t.rx.phase)) = some (6, 6, 0, .header1) := by decide

/-- Vector CS14. -/
theorem test_setChecksum_cs14 :
    ((nextOf (exec .setChecksum { State.reset with inputs := [{}], tx := { len := 0x16 } })).map fun t =>
      (t.tx.cs, t.regs.err)) = some (0xE9, .none) := by decide
theorem test_setChecksum_cs14_refused :
    ((nextOf (exec .setChecksum { State.reset with inputs := [{}], tx := { len := 0x17 } })).map fun t =>
      (t.tx.cs, t.regs.err, t.regs.status)) = some (0x00, .payloadOverflow, 0x10) := by decide

/-- Vector B1. -/
theorem test_buildRead_b1 : ((nextOf (exec .buildRead (withArgs 0x01 0x24 0x02 0))).map fun t => t.tx) =
    some { id := 0x01, op := 0x02, len := 0x04, cs := 0xD2, pay := [(0, 0x24), (1, 0x02)] } := by decide
/-- Vector B6. -/
theorem test_buildRead_b6 : ((nextOf (exec .buildRead (withArgs 0 0 0x15 0))).map fun t =>
    (t.regs.err, t.regs.status, t.tx)) = some (.payloadOverflow, 0x10, {}) := by decide
/-- Vector W1. -/
theorem test_buildWrite8_w1 : ((nextOf (exec .buildWrite8 (withArgs 0x01 0x1E 0x64 0))).map fun t => t.tx) =
    some { id := 0x01, op := 0x03, len := 0x04, cs := 0x75, pay := [(0, 0x1E), (1, 0x64)] } := by decide
/-- Vector W2: value 512, low byte first. -/
theorem test_buildWrite16_w2 : ((nextOf (exec .buildWrite16 (withArgs 0x04 0x1E 0x00 0x02))).map fun t => t.tx) =
    some { id := 0x04, op := 0x03, len := 0x05, cs := 0xD3, pay := [(0, 0x1E), (2, 0x02)] } := by decide
/-- Vector B3. -/
theorem test_buildWrite16_b3 : ((nextOf (exec .buildWrite16 (withArgs 0xFE 0x20 0xFF 0xFF))).map fun t => t.tx.cs) =
    some 0xDB := by decide

/-- Vector S9, cycle 11: SEND with 0x22 arriving while READY; the checksum is FA and the FIFO is flushed. -/
theorem test_send_s9 :
    ((nextOf (exec .send { State.reset with
        inputs := [{ rxValid := true, rxData := 0x22 }], tx := { id := 2, op := 1, len := 2 },
        rx := { phase := .ready }, fifo := { mem := [(6, 0x11)], wr := 7, rd := 6 } })).map fun t =>
      (t.sqr.seq, t.tx.cs, t.fifo.wr, t.fifo.rd, t.rx.phase)) = some (.sending, 0xFA, 8, 8, .ready) := by decide
/-- Program P5, cycle 2. -/
theorem test_send_bad_length :
    ((nextOf (exec .send { State.reset with inputs := [{}], tx := { len := 1 } })).map fun t =>
      (t.sqr.seq, t.regs.err, t.regs.status)) = some (.idle, .badLength, 0x10) := by decide
theorem test_transact_mode :
    ((nextOf (exec .transact { State.reset with inputs := [{}], tx := { id := 1, op := 1, len := 2 } })).map fun t =>
      (t.sqr.seq, t.sqr.mode, t.tx.cs)) = some (.sending, true, 0xFB) := by decide
/-- Vector S10, cycle 7: the pop is suppressed and the buffered byte stays. -/
theorem test_receive_s10 :
    ((nextOf (exec .receive { State.reset with
        inputs := [{}], sqr := { tmr := 9 }, rx := { phase := .payload, pos := 1, len := 2 }, fifo := { wr := 5, rd := 4 } })).map
      fun t => (t.sqr.seq, t.sqr.tmr, t.rx.phase, t.fifoCount)) = some (.await, 0, .header1, 1) := by decide
/-- Vector S5. -/
theorem test_abort_s5 :
    ((nextOf (exec .abort { State.reset with
        inputs := [{}], sqr := { seq := .await, tmr := 3 }, rx := { phase := .packetId } })).map fun t =>
      (t.sqr.seq, t.sqr.tmr, t.rx.phase, t.regs.status)) = some (.idle, 3, .header1, 0) := by decide
/-- Vector S6: no effect in SENDING; the byte of the cycle still goes out. -/
theorem test_abort_s6 :
    ((nextOf (exec .abort (driven { txReady := true } { State.reset with
        tx := { len := 2 }, sqr := { seq := .sending, txIdx := 2 } }))).map fun t =>
      (t.sqr.seq, t.sqr.txIdx)) = some (.sending, 3) := by decide
theorem test_readReg_p2 : ((nextOf (exec .readReg (withArgs 0x01 0x24 0x02 0))).map fun t =>
    (t.sqr.seq, t.sqr.mode, t.tx.cs)) = some (.sending, true, 0xD2) := by decide
theorem test_writeReg8_s11 : ((nextOf (exec .writeReg8 (withArgs 0x01 0x1E 0x64 0))).map fun t =>
    (t.sqr.seq, t.sqr.mode, t.tx.cs)) = some (.sending, false, 0x75) := by decide
theorem test_writeReg16_w2 : ((nextOf (exec .writeReg16 (withArgs 0x04 0x1E 0x00 0x02))).map fun t =>
    (t.sqr.seq, t.sqr.mode, t.tx.cs)) = some (.sending, false, 0xD3) := by decide
theorem test_nop_keeps_pop : ((nextOf (exec .nop { State.reset with
      inputs := [{}], fifo := { mem := [(0, 0xFF)], wr := 1 } })).map fun t => (t.rx.phase, t.fifo.rd)) =
    some (.header2, 1) := by decide
/-- Program P5, cycle 5. -/
theorem test_reserved_illegal : ((nextOf (exec (.reserved 0x0E) (driven {} State.reset))).map fun t =>
    (t.regs.err, t.regs.status, t.sqr.seq)) = some (.illegal, 0x10, .idle) := by decide
/-- 30_encoding.md R112: ILLEGAL is checked before BUSY. -/
theorem test_reserved_busy : ((nextOf (exec (.reserved 0xFF) (inSeq .await))).map fun t => t.regs.err) =
    some .illegal := by decide

/-! ### The step -/

theorem test_step_reset_wins : ((nextOf (step (driven { writes 0x008 0x77 with rst := true } (inSeq .await)))).map fun t =>
    (t.sqr.seq, t.regs.arg0)) = some (.idle, 0) := by decide
theorem test_step_fetches_command :
    ((nextOf (step (State.reset.withFetchWord 8 0x09))).map fun t => t.sqr.seq) = some .await := by decide
/-- Program P5, cycle 14: a locked register while SENDING. -/
theorem test_step_locked : ((nextOf (step (driven (writes 0x014 0x05) { State.reset with
      tx := { id := 1, len := 2 }, sqr := { seq := .sending } }))).map fun t => (t.tx.id, t.regs.err, t.regs.status)) =
    some (1, .busy, 0x10) := by decide
/-- Program P5, cycle 4: W1C of CMDERR clears ERR. -/
theorem test_step_w1c : ((nextOf (step (driven (writes 0x001 0x10) { State.reset with
      regs := { status := 0x1F, err := .illegal } }))).map fun t => (t.regs.status, t.regs.err)) =
    some (0x0F, .none) := by decide
/-- Vector S4a, cycle 9: READY wins over the timeout. -/
theorem test_step_s4a : ((nextOf (step (driven {} { State.reset with
      sqr := { seq := .await, tmr := 6 }, regs := { timeout := 6 }
      rx := { phase := .payload, pos := 1, id := 1, len := 2, op := 1 }
      fifo := { mem := [(5, 0xFB)], wr := 6, rd := 5 } }))).map fun t => (t.sqr.seq, t.sqr.tmr, t.regs.status)) =
    some (.complete, 6, 0x09) := by decide
/-- Vector S4b, cycle 8: the timeout discards the partial frame. -/
theorem test_step_s4b : ((nextOf (step (driven {} { State.reset with
      sqr := { seq := .await, tmr := 5 }, regs := { timeout := 5 }
      rx := { phase := .payload, pos := 0, id := 1, len := 2 }
      fifo := { mem := [(4, 0x01)], wr := 5, rd := 4 } }))).map fun t => (t.sqr.seq, t.rx.phase, t.regs.status)) =
    some (.timedOut, .header1, 0x02) := by decide
/-- Vector Q1, cycle 2: the pop does not see the byte pushed in the same cycle. -/
theorem test_step_q1 : ((nextOf (step (driven { rxValid := true, rxData := 0x20 } { State.reset with
      fifo := { mem := [(0, 0x10)], wr := 1 } }))).map fun t => (t.fifo.wr, t.fifo.rd, t.fifoCount, t.rx.phase)) =
    some (2, 1, 1, .header1) := by decide
/-- Vector Q4: one push at Count 127 makes the FIFO look empty. -/
theorem test_step_q4 : ((nextOf (step (driven { rxValid := true, rxData := 0x20 } { State.reset with
      rx := { phase := .ready }, fifo := { wr := 0x7D, rd := 0x7E } }))).map fun t => (t.fifo.wr, t.fifoCount)) =
    some (0x7E, 0) := by decide
/-- Vector S9: a byte offered in SENDING is dropped. -/
theorem test_step_drops : ((nextOf (step (driven { rxValid := true, rxData := 0x33 } { State.reset with
      tx := { len := 2 }, sqr := { seq := .sending } }))).map fun t => (t.fifo.wr, t.fifo.mem)) = some (0, []) := by decide
/-- Vectors CS1, CS3, CS4 and the undetected swap CS12. -/
theorem test_checksum_vectors : checksum 0x01 0x04 0x03 [(0, 0x1E), (1, 0x64)] = 0x75 ∧
    checksum 0xFE 0x04 0x03 [(0, 0xFF), (1, 0xFF)] = 0xFC ∧ checksum 0xFA 0x02 0x03 [] = 0x00 ∧
    checksum 0x01 0x04 0x03 [(0, 0x64), (1, 0x1E)] = 0x75 := by decide
/-- Vector M10: a third 0xFF is the id. -/
theorem test_deserializer_m10 : (RxUnit.consumeAll 20 {} [0xFF, 0xFF, 0xFF, 0x02, 0x00, 0xFE]).phase = .ready := by decide
/-- Vector M6: the frame after a single 0xFF is lost. -/
theorem test_deserializer_m6 :
    (RxUnit.consumeAll 20 {} [0xFF, 0xFF, 0xFF, 0x01, 0x02, 0x01, 0xFB]).phase = .header1 := by decide
/-- Vector M5b: PAYLOAD_CAP + 3 is rejected; vector M5d: PAYLOAD_CAP + 2 is not. -/
theorem test_deserializer_m5 : (RxUnit.consumeAll 20 {} [0xFF, 0xFF, 0x01, 0x17]).phase = .header1 ∧
    (RxUnit.consumeAll 20 {} [0xFF, 0xFF, 0x01, 0x16]).phase = .payload := by decide

/-! ### Every obligation's hypotheses can be met -/

/-- A property of every value of a list, as a Bool (so that no decision runs over a whole type). -/
def each {α : Type} (l : List α) (P : α → Prop) [∀ a, Decidable (P a)] : Bool := l.all fun a => decide (P a)

theorem witness_DecodeOfEncode : Instr.send.wf = true ∧ (Instr.reserved 0x0E).wf = true := by decide
theorem witness_EncodeOfDecode : decode [0x0E, 0x00] = .ok (.reserved 0x0E, [0x00]) := by rfl
theorem witness_StepRunsTheDecodedCommand : let s := driven (writes 0x000 0x07) State.reset
    Instr.send.wf = true ∧ s.input.rst = false ∧ s.input.busWe = true ∧ s.input.busAddr = 0x000#10 ∧
      decodeByte s.input.busWdata = .send := by decide
theorem witness_ResetInputLoadsResetState : (driven { rst := true } State.reset).input.rst = true := by decide
theorem witness_CycleWithoutWriteKeepsHostState : let s := driven {} State.reset
    s.input.rst = false ∧ s.input.busWe = false ∧ s.busy = false := by decide
/-- Each clause's range at its ends, for PAYLOAD_CAP = 20. -/
theorem witness_RegisterReadsFollowTheMap :
    (each [0x01E#10, 0x0FF#10] fun a => 0x01E ≤ a.toNat ∧ a.toNat ≤ 0x0FF) ∧
    (each [0x114#10, 0x1FF#10] fun a => 0x100 + State.reset.params.payloadCap ≤ a.toNat ∧ a.toNat ≤ 0x1FF) ∧
    (each [0x214#10, 0x3FF#10] fun a => 0x200 + State.reset.params.payloadCap ≤ a.toNat) ∧
    (let s := driven { busRe := true } State.reset;
      s.input.rst = false ∧ s.input.busRe = true ∧ (nextOf (step s)).isSome = true) ∧
    (let s := driven { busAddr := 0x014 } { State.reset with tx := { id := 5 } };
      s.input.rst = false ∧ s.input.busRe = false ∧ regRead s s.input.busAddr = 0x05 ∧ busRdata s = 0x00) := by decide
/-- Each range at its ends. -/
theorem witness_ReadOnlyAndReservedWritesIgnored :
    each [0x003#10, 0x007#10, 0x00B#10, 0x017#10, 0x0FF#10, 0x114#10, 0x3FF#10] fun a =>
      let s := driven (writes a 0xFF) State.reset
      s.input.rst = false ∧ s.input.busWe = true ∧
      (0x003 ≤ s.input.busAddr.toNat ∧ s.input.busAddr.toNat ≤ 0x007 ∨ s.input.busAddr.toNat = 0x00B ∨
        0x017 ≤ s.input.busAddr.toNat ∧ s.input.busAddr.toNat ≤ 0x0FF ∨
        0x100 + s.params.payloadCap ≤ s.input.busAddr.toNat) := by decide
/-- Each range at its ends, and a free operand register while BUSY. -/
theorem witness_RegisterWriteReadsBack :
    (each [0x002#10, 0x008#10, 0x00A#10, 0x00C#10, 0x016#10, 0x100#10, 0x113#10] fun a =>
      let s := driven (writes a 0xFF) State.reset
      s.input.rst = false ∧ s.input.busWe = true ∧ s.busy = false ∧
      (a.toNat = 0x002 ∨ 0x008 ≤ a.toNat ∧ a.toNat ≤ 0x00A ∨ 0x00C ≤ a.toNat ∧ a.toNat ≤ 0x016 ∨
        0x100 ≤ a.toNat ∧ a.toNat < 0x100 + s.params.payloadCap)) ∧
    (let s := driven (writes 0x00A 0xFF) (inSeq .await);
      s.busy = true ∧ s.input.busAddr.toNat ≤ 0x00A) := by decide
/-- Each clause: a command while BUSY, a locked write at the ends of its ranges, a write that is never refused. -/
theorem witness_BusyRefusals :
    (each [0x00C#10, 0x016#10, 0x100#10, 0x113#10] fun a =>
      let s := driven (writes a 0xFF) (inSeq .guard)
      s.busy = true ∧ s.input.rst = false ∧ s.input.busWe = true ∧
      (0x00C ≤ s.input.busAddr.toNat ∧ s.input.busAddr.toNat ≤ 0x016 ∨
        0x100 ≤ s.input.busAddr.toNat ∧ s.input.busAddr.toNat < 0x100 + s.params.payloadCap)) ∧
    (each [0x001#10, 0x002#10, 0x008#10, 0x00A#10] fun a =>
      let s := driven (writes a 0xFF) (inSeq .sending)
      s.input.rst = false ∧ s.input.busWe = true ∧
      (s.input.busAddr.toNat = 0x001 ∨ s.input.busAddr.toNat = 0x002 ∨
        0x008 ≤ s.input.busAddr.toNat ∧ s.input.busAddr.toNat ≤ 0x00A)) := by decide
theorem witness_StatusWriteClearsWrittenBits : let s := driven (writes 0x001 0x1F) State.reset
    s.input.rst = false ∧ s.input.busWe = true ∧ s.input.busAddr = 0x001#10 := by decide
/-- A state for each event: completion (with READY), timeout, guard end (a step too); a STATUS write that clears one bit and
keeps another; a command. -/
theorem witness_EventsSetStatusBits :
    (let s := driven {} { State.reset with
        sqr := { seq := .await }, rx := { phase := .payload, pos := 1, id := 1, len := 2, op := 1 }
        fifo := { mem := [(0, 0xFB)], wr := 1 } };
      s.sqr.seq ≠ .complete ∧ (afterSequencer s .none).sqr.seq = .complete ∧
        s.rx.phase ≠ .ready ∧ (afterDeserializer s .none).rx.phase = .ready) ∧
    (let s := driven {} (inSeq .await);
      s.sqr.seq ≠ .timedOut ∧ (afterSequencer s .none).sqr.seq = .timedOut) ∧
    (let s := driven {} (inSeq .guard);
      s.sqr.seq = .guard ∧ (afterSequencer s .none).sqr.seq ≠ .guard ∧ s.fifoCount = 0 ∧ s.input.rst = false ∧
        ((nextOf (step s)).map fun t => t.regs.status) = some 0x04) ∧
    (let s := driven (writes 0x001 0x01) { State.reset with regs := { status := 0x03 } };
      s.input.rst = false ∧ s.input.busWe = true ∧ s.input.busAddr = 0x001#10 ∧
        ((nextOf (step s)).map fun t => t.regs.status) = some 0x02) ∧
    (nextOf (exec .send (driven {} State.reset))).isSome = true := by decide
theorem witness_ChecksumIsComplementedSum :
    2 ≤ (0x02#8).toNat ∧ (0x16#8).toNat ≤ ({} : Params).payloadCap + 2 := by decide
theorem witness_ChecksumIgnoresBytesBeyondPayload : (0x04#8).toNat - 2 ≤ 2 := by decide
theorem witness_PacketValidIffSumIsFF : 2 ≤ (0x04#8).toNat := by decide
theorem witness_SingleByteChangeIsDetected :
    verify 0x01 0x04 0x03 [(0, 0x1E), (1, 0x64)] 0x75 = true ∧ (0x00#8) ≠ 0x01 ∧ 1 + 2 < (0x04#8).toNat ∧
      (0x00#8) ≠ Memory.read [(0, 0x1E), (1, 0x64)] 1 := by decide
theorem witness_NopIsACycleWithoutWrite :
    (let s := driven (writes 0x000 0x00) (inSeq .await);
      s.input.rst = false ∧ s.input.busWe = true ∧ s.input.busAddr = 0x000#10 ∧ s.input.busWdata = 0x00#8) ∧
    (let s := driven {} (inSeq .await);
      s.input.rst = false ∧ s.input.busWe = false) := by decide
/-- A response wait that times out and one that counts; a guard interval that ends and one that counts; no wait. -/
theorem witness_RxResetCommand :
    (each [0#32, 1#32] fun x =>
      let s := { inSeq .await with regs := { timeout := x } }
      s.sqr.seq = .await ∧ s.rx.phase ≠ .ready ∧ (s.sqr.tmr = s.regs.timeout ↔ x = 0)) ∧
    (each [0#32, 1#32] fun x =>
      let s := { inSeq .guard with regs := { guard := x } }
      s.sqr.seq = .guard ∧ (s.sqr.gcnt = s.regs.guard ↔ x = 0)) ∧
    (inSeq .sending).sqr.seq ≠ .await := by decide
/-- As for RX_RESET, and neither a wait nor a guard interval. -/
theorem witness_FifoFlushCommand :
    (each [0#32, 1#32] fun x =>
      let s := { inSeq .await with regs := { timeout := x } }
      s.sqr.seq = .await ∧ s.rx.phase ≠ .ready ∧ (s.sqr.tmr = s.regs.timeout ↔ x = 0)) ∧
    (each [(false, 0#32), (true, 0#32), (true, 1#32)] fun i =>
      let s := { State.reset with sqr := { seq := .guard, mode := i.1 }, regs := { guard := i.2 } }
      s.sqr.seq = .guard ∧ s.sqr.mode = i.1 ∧ (s.sqr.gcnt = s.regs.guard ↔ i.2 = 0)) ∧
    State.reset.sqr.seq ≠ .await ∧ State.reset.sqr.seq ≠ .guard := by decide
/-- TX_LEN at both ends of its range. -/
theorem witness_SetChecksumAccepted : each [0x02#8, 0x16#8] fun n =>
    let s := { State.reset with tx := { len := n } }
    s.busy = false ∧ 2 ≤ s.tx.len.toNat ∧ s.tx.len.toNat ≤ s.params.payloadCap + 2 := by decide
theorem witness_BuildReadAccepted : (withArgs 0 0 0x14 0).busy = false ∧
    (withArgs 0 0 0x14 0).regs.arg1.toNat ≤ (withArgs 0 0 0x14 0).params.payloadCap := by decide
theorem witness_BuildWrite8Accepted : (inSeq .complete).busy = false := by decide
theorem witness_BuildWrite16Accepted : (inSeq .timedOut).busy = false := by decide
theorem witness_SendAndTransactAccepted : each [0x02#8, 0x16#8] fun n =>
    let s := { inSeq .timedOut with tx := { len := n } }
    s.busy = false ∧ 2 ≤ s.tx.len.toNat ∧ s.tx.len.toNat ≤ s.params.payloadCap + 2 := by decide
theorem witness_ReceiveAccepted : (inSeq .complete).busy = false := by decide
theorem witness_AbortCommand : (inSeq .await).sqr.seq = .await ∧ (inSeq .guard).sqr.seq ≠ .await := by decide
theorem witness_CompositeCommandsAccepted : (withArgs 1 0x24 0x14 0).busy = false ∧
    (withArgs 1 0x24 0x14 0).regs.arg1.toNat ≤ (withArgs 1 0x24 0x14 0).params.payloadCap := by decide
theorem witness_ReservedCodesRefusedAsIllegal : 0x0E ≤ (0x0E#8).toNat ∧ 0x0E ≤ (0xFF#8).toNat := by decide
/-- Each clause at its boundary. -/
theorem witness_OperandRefusals : (withArgs 0 0 0x15 0).busy = false ∧
    (withArgs 0 0 0x15 0).params.payloadCap < (withArgs 0 0 0x15 0).regs.arg1.toNat ∧
    (let s := { State.reset with tx := { len := 0x17 } };
      s.busy = false ∧ s.params.payloadCap + 2 < s.tx.len.toNat) ∧
    (let s := { State.reset with tx := { len := 0x01 } };
      s.busy = false ∧ s.tx.len.toNat < 2) := by decide
theorem witness_CommandsKeepHostRegisters : (nextOf (exec .send (inSeq .idle))).isSome = true := by decide
/-- A stalled cycle, a byte in the middle, and the last byte of a frame. -/
theorem witness_SendingStep :
    (each [(false, 0#9), (true, 0#9), (true, 5#9)] fun i =>
      let s := driven { txReady := i.1 } { State.reset with tx := { len := 2 }, sqr := { seq := .sending, txIdx := i.2 } }
      s.input.rst = false ∧ s.sqr.seq = .sending ∧ s.input.txReady = i.1) ∧
    (5#9).toNat = (2#8).toNat + 3 ∧ (0#9).toNat ≠ (2#8).toNat + 3 := by decide
theorem witness_GuardStep : each [(false, 0#32), (false, 1#32), (true, 0#32), (true, 1#32)] fun i =>
    let s := driven {} { State.reset with sqr := { seq := .guard, mode := i.1 }, regs := { guard := i.2 } }
    s.input.rst = false ∧ s.sqr.seq = .guard ∧ s.sqr.mode = i.1 ∧ (s.sqr.gcnt = s.regs.guard ↔ i.2 = 0#32) := by decide
/-- The three outcomes: completion, timeout, count. -/
theorem witness_AwaitStep :
    (let s := driven {} { State.reset with
        sqr := { seq := .await }, rx := { phase := .payload, pos := 1, id := 1, len := 2, op := 1 }
        fifo := { mem := [(0, 0xFB)], wr := 1 } };
      s.input.rst = false ∧ s.sqr.seq = .await ∧ s.rx.phase ≠ .ready ∧ fetchCommand s.input ≠ some 0x0A#8 ∧
        ((nextOf (step s)).map fun t => t.rx.phase) = some .ready) ∧
    (each [0#32, 1#32] fun x =>
      let s := driven {} { State.reset with sqr := { seq := .await }, regs := { timeout := x } }
      s.input.rst = false ∧ s.sqr.seq = .await ∧ s.rx.phase ≠ .ready ∧ fetchCommand s.input ≠ some 0x0A#8 ∧
        ((nextOf (step s)).map fun t => t.rx.phase) = some .header1 ∧ (s.sqr.tmr = s.regs.timeout ↔ x = 0)) := by decide
theorem witness_SequencerTransitionsAreAll : let s := driven {} (inSeq .await)
    (s.sqr.seq = .await → s.rx.phase ≠ .ready) ∧ (nextOf (step s)).isSome = true := by decide
theorem witness_TxPacketFrozenWhileBusy : let s := driven (writes 0x014 0x05) (inSeq .sending)
    s.input.rst = false ∧ s.busy = true := by decide
theorem witness_BytesDroppedWhileTransmitting : each [SeqState.sending, .guard] fun q =>
    let s := driven { rxValid := true, rxData := 0x33 } (inSeq q)
    s.input.rst = false ∧ (s.sqr.seq = .sending ∨ s.sqr.seq = .guard) := by decide

/-- `n` idle cycles with the PHY always ready. -/
def quietDrive (n : Nat) (s : State) : State := { s with inputs := List.replicate n { txReady := true } }

theorem witness_GuardLastsGuardPlusOneCycles : let s := quietDrive 2 { inSeq .guard with regs := { guard := 1 } }
    s.sqr.seq = .guard ∧ s.sqr.gcnt = 0#32 ∧ ∀ j < s.regs.guard.toNat + 1, (stateAfter j s).input.rst = false := by decide
theorem witness_AwaitEndsWithinTimeoutPlusOne : let s := quietDrive 2 { inSeq .await with regs := { timeout := 1 } }
    s.sqr.seq = .await ∧ s.sqr.tmr = 0#32 ∧ ∀ j < s.regs.timeout.toNat + 1, (stateAfter j s).input.rst = false := by decide
theorem witness_SilentLineTimesOutExactly : let s := quietDrive 2 { inSeq .await with regs := { timeout := 1 } }
    s.sqr.seq = .await ∧ s.sqr.tmr = 0#32 ∧ s.fifoCount = 0 ∧ s.rx.phase ≠ .ready ∧
    ∀ j < s.regs.timeout.toNat + 1, (stateAfter j s).input.rst = false ∧ (stateAfter j s).input.rxValid = false ∧
      fetchCommand (stateAfter j s).input ≠ some (Instr.code .abort) := by decide
theorem witness_SentBytesAreTheFrame :
    let s := quietDrive 6 { inSeq .sending with tx := { id := 1, len := 2, op := 1, cs := 0xFB } }
    s.sqr.seq = .sending ∧ s.sqr.txIdx = 0#9 ∧ 2 ≤ s.tx.len.toNat ∧
    (∀ j < 6, (stateAfter j s).input.rst = false) ∧ (∀ j < 6, (stateAfter j s).sqr.seq = .sending) ∧
    (stateAfter 6 s).sqr.seq ≠ .sending := by decide
theorem witness_SendingTakesOneCyclePerByte : let s := quietDrive 6 { inSeq .sending with tx := { len := 2 } }
    s.sqr.seq = .sending ∧ s.sqr.txIdx = 0#9 ∧
    ∀ j < s.tx.len.toNat + 4, (stateAfter j s).input.rst = false ∧ (stateAfter j s).input.txReady = true := by decide
theorem witness_HeaderIdAndLengthTransitions : ({} : RxUnit).phase = .header1 ∧
    ({ phase := .header2 } : RxUnit).phase = .header2 ∧ ({ phase := .packetId } : RxUnit).phase = .packetId ∧
    ({ phase := .length } : RxUnit).phase = .length := by decide
/-- The opcode, a payload byte and the checksum byte. -/
theorem witness_PayloadTransition : each [0#8, 1#8, 2#8] fun p =>
    let r : RxUnit := { phase := .payload, pos := p, len := 3 }
    r.phase = .payload ∧ 2 ≤ r.len.toNat ∧ r.pos.toNat < r.len.toNat := by decide
theorem witness_ValidFrameReachesReady : ({} : RxUnit).phase = .header1 ∧ [0x24#8].length ≤ ({} : Params).payloadCap := by
  decide
theorem witness_BadChecksumFrameDiscarded : ({} : RxUnit).phase = .header1 ∧
    [0x00#8, 0x02#8].length ≤ ({} : Params).payloadCap ∧
    (0xF9#8) ≠ ~~~(0x01#8 + BitVec.ofNat 8 ([0x00#8, 0x02#8].length + 2) + 0x00#8 + [0x00#8, 0x02#8].sum) := by decide
theorem witness_DeserializerNeverStuck : let r : RxUnit := { phase := .payload, pos := 0, len := 22 }
    (r.phase = .payload → 2 ≤ r.len.toNat ∧ r.len.toNat ≤ ({} : Params).payloadCap + 2 ∧ r.pos.toNat < r.len.toNat) ∧
      (List.replicate 25 0x00#8).length = ({} : Params).payloadCap + 5 := by decide
/-- A pop, no pop, and each of the two RxResets of the sequencer. -/
theorem witness_DeserializerCycle :
    (let s := driven {} { State.reset with fifo := { wr := 1 } };
      s.input.rst = false ∧ fetchCommand s.input = none ∧ s.rx.phase ≠ .ready ∧ s.fifoCount ≠ 0) ∧
    (driven {} State.reset).fifoCount = 0 ∧
    (let s := driven {} { State.reset with sqr := { seq := .guard, mode := true } };
      s.sqr.seq = .guard ∧ s.sqr.gcnt = s.regs.guard ∧ s.sqr.mode = true) ∧
    (let s := driven {} (inSeq .await);
      s.sqr.seq = .await ∧ s.rx.phase ≠ .ready ∧ s.sqr.tmr = s.regs.timeout) := by decide
theorem witness_ReadyHoldsThePacket : let s := driven (writes 0x000 0x07) { State.reset with rx := { phase := .ready } }
    s.input.rst = false ∧ s.busy = false ∧ s.rx.phase = .ready ∧
    fetchCommand s.input ≠ some 0x01#8 ∧ fetchCommand s.input ≠ some 0x09#8 := by decide
/-- A response wait that discards a frame and counts on; a GUARD cycle that only counts; a cycle that begins in READY. -/
theorem witness_DecodeErrorsAreSilent :
    (let s := driven {} { State.reset with
        sqr := { seq := .await }, regs := { timeout := 1 }, rx := { phase := .payload, pos := 1, id := 1, len := 2, op := 1 }
        fifo := { mem := [(0, 0xF9)], wr := 1 } };
      s.input.rst = false ∧ s.input.busWe = false ∧ s.sqr.seq = .await ∧ s.rx.phase ≠ .ready ∧
        s.sqr.tmr ≠ s.regs.timeout ∧ ((nextOf (step s)).map fun t => (t.rx.phase, t.sqr.tmr)) = some (.header1, 1)) ∧
    (let s := driven {} { inSeq .guard with regs := { guard := 1 } };
      s.input.rst = false ∧ s.input.busWe = false ∧ s.sqr.seq = .guard ∧ s.sqr.gcnt ≠ s.regs.guard ∧
        ((nextOf (step s)).map fun t => t.rx.phase) = some .header1) ∧
    (let s := driven {} { State.reset with rx := { phase := .ready } };
      s.input.rst = false ∧ s.input.busWe = false ∧ s.sqr.seq ≠ .guard ∧ s.sqr.seq ≠ .await ∧ s.rx.phase = .ready) := by
  decide
/-- Not full, and full with a pop in the same cycle. -/
theorem witness_FifoIsAQueue : each [63, 64] fun n =>
    let s := driven { rxValid := true } { State.reset with fifo := { wr := n } }
    s.input.rst = false ∧ s.input.busWe = false ∧ s.fifo.wr < 2 * s.params.fifoDepth ∧
    s.fifo.rd < 2 * s.params.fifoDepth ∧
    (s.fifoCount < s.params.fifoDepth ∨ s.fifoCount = s.params.fifoDepth ∧ s.rx.phase ≠ .ready) := by decide
theorem witness_FifoOverflow : let p : Params := {}
    (let f : Fifo := { wr := 0x45, rd := 0x05 };
      f.wr < 2 * p.fifoDepth ∧ f.rd < 2 * p.fifoDepth ∧ f.count p.fifoDepth = p.fifoDepth) ∧
    (let f : Fifo := { wr := 0x7D, rd := 0x7E };
      f.wr < 2 * p.fifoDepth ∧ f.rd < 2 * p.fifoDepth ∧ f.count p.fifoDepth = 2 * p.fifoDepth - 1) := by decide
theorem witness_FifoOccupancy : let s := driven {} { State.reset with fifo := { wr := 127, rd := 0 } }
    s.input.rst = false ∧ fetchCommand s.input = none ∧ s.fifo.wr < 2 * s.params.fifoDepth ∧
    s.fifo.rd < 2 * s.params.fifoDepth := by decide

/-- A state of a response wait that satisfies every invariant. -/
theorem awaiting_inv : StateInv (inSeq .await) := by
  constructor <;> constructor <;> decide

theorem witness_SimultaneousEvents : RuleInvariants (inSeq .await) ∧ abortsAwait (inSeq .await) (.cmd .abort abortEffect) = true :=
  ⟨awaiting_inv.rules, by decide⟩
theorem witness_StepKeepsInv : ∃ t, StateInv (inSeq .await) ∧ step (inSeq .await) = .next t := ⟨_, awaiting_inv, rfl⟩
theorem witness_RuleInvariantsHoldWhenReachable : ∃ t, step (driven {} State.reset) = .next t ∧ Reachable t :=
  ⟨_, rfl, .step (.reset {} 0 [{}]) rfl⟩
theorem witness_Wr32WritesAllFourBytes : State.reset.busy = false ∧
    (∃ s : State, s.busy = false ∧
      s.inputs = List.zipWith HostLine.drive (List.replicate 4 { rxValid := true }) (wr32Timeout 0x12345678) ++ []) ∧
    ∃ s : State, s.busy = false ∧
      s.inputs = List.zipWith HostLine.drive (List.replicate 4 {}) (wr32Guard 0xFFFFFFFF) ++ [{ txReady := true }] :=
  ⟨by decide, ⟨{ State.reset with inputs := _ }, by decide, rfl⟩, ⟨{ State.reset with inputs := _ }, by decide, rfl⟩⟩

end Sys2Proof.Tests
end

namespace Sys2Proof.Machine

open Sys2Proof

/-! ### The host write of a step, with its W1C mask -/

/-- The register write of a cycle that writes no command is one of the classified host writes (10_state.md R42). -/
theorem registerWrite_isHostWrite {s : State} (hf : fetchCommand s.input = none) : IsHostWrite s (registerWrite s) := by
  unfold registerWrite
  split
  · rcases classifyWrite_cases s (regAt s.params s.input.busAddr) s.input.busWdata with
      ⟨-, h⟩ | ⟨-, -, h⟩ | ⟨-, h⟩ | ⟨ha, h⟩ <;> rw [h]
    · exact .none
    · exact .refused _
    · exact .status _ hf
    · exact .store _ _ hf ha rfl rfl
  · exact .none

/-- A cycle that writes CMD clears no STATUS bit (20_memory.md R63, R66). -/
theorem IsHostWrite.w1cMask_of_command {s : State} {h : HostWrite} {b : Byte} (hw : IsHostWrite s h)
    (hb : fetchCommand s.input = some b) : h.w1cMask = 0#5 := by
  cases hw with
  | status w hf => rw [hf] at hb; cases hb
  | _ => rfl

theorem fetchCommand_eq_some {i : CycleInput} {b : Byte} (h : fetchCommand i = some b) :
    i.busWe = true ∧ i.busAddr = 0#10 ∧ i.busWdata = b := by
  unfold fetchCommand at h
  split at h
  case isTrue hc => exact ⟨hc.1, hc.2, Option.some.inj h⟩
  case isFalse => cases h

/-- STATUS.W1C of a cycle: the byte written to STATUS, 0 in every other cycle (10_state.md R47; 20_memory.md R66). -/
def statusClearMask (i : CycleInput) : BitVec 5 :=
  if i.busWe = true ∧ i.busAddr = 0x001#10 then i.busWdata.extractLsb' 0 5 else 0#5

theorem statusClearMask_of_command {i : CycleInput} {b : Byte} (h : fetchCommand i = some b) :
    statusClearMask i = 0#5 := by
  obtain ⟨-, ha, -⟩ := fetchCommand_eq_some h
  simp [statusClearMask, ha]

/-- A bit of the mask is clear exactly when the host does not write 1 to it at STATUS. -/
theorem statusClearMask_getLsbD_eq_false (i : CycleInput) {k : Nat} (hk : k < 5) :
    (statusClearMask i).getLsbD k = false ↔
      ¬(i.busWe = true ∧ i.busAddr = 0x001#10 ∧ i.busWdata.getLsbD k = true) := by
  unfold statusClearMask
  by_cases hc : i.busWe = true ∧ i.busAddr = 0x001#10
  · rw [if_pos hc]; simp [hc.1, hc.2, hk]
  · rw [if_neg hc, ← and_assoc]; simp [hc]

/-- A step with rst = 0 is the cycle of one classified host write, which clears the STATUS bits written 1 at STATUS. -/
theorem step_eq_runCycle {s : State} (hr : s.input.rst = false) :
    ∃ h, IsHostWrite s h ∧ step s = .next (runCycle s h) ∧ h.w1cMask = statusClearMask s.input := by
  cases hf : fetchCommand s.input with
  | none =>
    exact ⟨_, registerWrite_isHostWrite hf, step_of_no_command hr hf, registerWrite_w1cMask s⟩
  | some b =>
    obtain ⟨h, hw, he⟩ := exec_cases hf
    refine ⟨h, hw, ?_, ?_⟩
    · simpa [step, hr, hf] using he
    · rw [hw.w1cMask_of_command hf, statusClearMask_of_command hf]

/-! ### What phase 5 leaves of the FIFO, the receive unit and the sequencer -/

/-- Phase 5 changes the FIFO only with Flush (10_state.md R46; 44_circular_buffer.md R257). -/
theorem runCycle_fifo {s : State} {h : HostWrite} (hw : IsHostWrite s h) :
    (runCycle s h).fifo = (afterDeserializer s h).fifo ∨
      (runCycle s h).fifo = (afterDeserializer s h).fifo.flush := by
  cases hw <;> simp [runCycle, afterHost, Reg.store_frame]
  case abort hf => unfold abortEffect; split <;> simp

/-- The write side of the FIFO is phase 2's alone (10_state.md R43). -/
theorem runCycle_fifo_writeSide {s : State} {h : HostWrite} (hw : IsHostWrite s h) :
    (runCycle s h).fifo.mem = (afterIngress s).fifo.mem ∧ (runCycle s h).fifo.wr = (afterIngress s).fifo.wr := by
  rcases runCycle_fifo hw with h | h <;> simp [h]

/-- Only RX-affecting writes change the receive unit in phase 5, with RxReset (10_state.md R44, R46). -/
theorem runCycle_rx_of_rxAffecting {s : State} {h : HostWrite} (hw : IsHostWrite s h) :
    (runCycle s h).rx = (afterSequencer s h).rx ∨
      rxAffecting s h = true ∧ (runCycle s h).rx = (afterSequencer s h).rx.reset := by
  cases hw <;> simp [runCycle, afterHost, Reg.store_frame, rxAffecting]
  case abort hf =>
    by_cases hq : s.sqr.seq = .await
    · simp [abortEffect_of_await hq, abortsAwait, hq]
    · simp [abortEffect_of_not_await hq]

/-- A cycle that writes no command has the receive side of the cycle with no host write (10_state.md R44). -/
theorem runCycle_receiveSide_of_no_command {s : State} {h : HostWrite} (hw : IsHostWrite s h)
    (hf : fetchCommand s.input = none) :
    (runCycle s h).rx = (quietCycle s).rx ∧ (runCycle s h).fifo = (quietCycle s).fifo := by
  cases hw with
  | none => exact ⟨rfl, rfl⟩
  | refused e => exact ⟨rfl, rfl⟩
  | status w _ => exact ⟨rfl, rfl⟩
  | store r v _ _ _ _ =>
    have hv : afterSequencer s (.reg 0#5 fun _ t => r.store v t) = afterSequencer s .none := rfl
    simp [runCycle, afterHost, Reg.store_frame, hv]
  | _ hc => simp [hf] at hc

/-- Does the sequencer's step reset the deserializer: a guard end with MODE = 1, or a timeout (43_controller.md R231,
R232)? -/
def sequencerResetsRx (s : State) (r : RxUnit) : Prop :=
  (s.sqr.seq = .guard ∧ s.sqr.gcnt = s.regs.guard ∧ s.sqr.mode = true) ∨
    (s.sqr.seq = .await ∧ r.phase ≠ .ready ∧ s.sqr.tmr = s.regs.timeout)

theorem seqStep_rx_of_resets {s t : State} (h : sequencerResetsRx s t.rx) (txReady : Bool) :
    (seqStep s t txReady).rx = t.rx.reset := by
  rcases h with ⟨hs, hg, hm⟩ | ⟨hs, hp, ht⟩
  · simp [seqStep, hs, guardStep, hg, hm]
  · simp [seqStep, hs, awaitStep, hp, ht]

theorem seqStep_rx_of_not_resets {s t : State} (h : ¬sequencerResetsRx s t.rx) (txReady : Bool) :
    (seqStep s t txReady).rx = t.rx := by
  rcases seqStep_cases s t txReady with
    ⟨-, -, e⟩ | ⟨-, -, -, e⟩ | ⟨-, -, -, e⟩ | ⟨hs, hg, hm, -⟩ | ⟨-, -, -, e⟩ | ⟨-, -, e⟩ | ⟨-, -, e⟩ | ⟨hs, hp, ht, -⟩ |
    ⟨-, -, -, e⟩ | ⟨-, e⟩
  case inr.inr.inr.inl => exact absurd (.inl ⟨hs, hg, hm⟩) h
  case inr.inr.inr.inr.inr.inr.inr.inl => exact absurd (.inr ⟨hs, hp, ht⟩) h
  all_goals rw [e]

theorem afterSequencer_none (s : State) :
    afterSequencer s .none = seqStep s (afterDeserializer s .none) s.input.txReady := rfl

/-- Phase 4 resets the receive unit or leaves it. -/
theorem afterSequencer_rx (s : State) (h : HostWrite) :
    (afterSequencer s h).rx = (afterDeserializer s h).rx ∨
      (afterSequencer s h).rx = (afterDeserializer s h).rx.reset := by
  unfold afterSequencer
  split
  · exact .inl rfl
  · by_cases hr : sequencerResetsRx s (afterDeserializer s h).rx
    · exact .inr (seqStep_rx_of_resets hr _)
    · exact .inl (seqStep_rx_of_not_resets hr _)

/-- A packet that SENDING transmits: I4 of 10_state.md R48. -/
def TxPacket.Sendable (cap : Nat) (p : TxPacket) : Prop :=
  2 ≤ p.len.toNat ∧ p.len.toNat ≤ cap + 2 ∧ p.cs = Machine.checksum p.id p.len p.op p.pay

theorem TxPacket.sealed_sendable {p : TxPacket} {cap : Nat} (hlo : 2 ≤ p.len.toNat) (hhi : p.len.toNat ≤ cap + 2) :
    p.sealed.Sendable cap := ⟨hlo, hhi, rfl⟩

theorem readPacket_sendable (s : State) : (readPacket s).Sendable s.params.payloadCap := by
  have := s.params.capLegal
  exact TxPacket.sealed_sendable (show 2 ≤ 4 by omega) (show 4 ≤ _ by omega)

theorem write8Packet_sendable (s : State) : (write8Packet s).Sendable s.params.payloadCap := by
  have := s.params.capLegal
  exact TxPacket.sealed_sendable (show 2 ≤ 4 by omega) (show 4 ≤ _ by omega)

theorem write16Packet_sendable (s : State) : (write16Packet s).Sendable s.params.payloadCap := by
  have := s.params.capLegal
  exact TxPacket.sealed_sendable (show 2 ≤ 5 by omega) (show 5 ≤ _ by omega)

/-- What the cycle of an accepted send command makes (43_controller.md R220, R221, R224 to R226). -/
def SendStarted (s t : State) : Prop :=
  t.sqr.seq = .sending ∧ t.sqr.txIdx = 0#9 ∧ t.tx.Sendable s.params.payloadCap ∧ t.fifo.rd = t.fifo.wr

/-- What the cycle of an accepted RECEIVE makes (43_controller.md R222). -/
def WaitStarted (t : State) : Prop :=
  t.sqr.seq = .await ∧ t.sqr.tmr = 0#32 ∧ t.rx.phase = .header1

/-- While not BUSY the sequencer moves only by a send command or RECEIVE (43_controller.md R233). -/
theorem runCycle_of_not_busy {s : State} {h : HostWrite} (hw : IsHostWrite s h) (hb : s.busy = false) :
    (runCycle s h).sqr = s.sqr ∨ SendStarted s (runCycle s h) ∨ WaitStarted (runCycle s h) := by
  have hv : (afterSequencer s h).sqr = s.sqr := by simp [afterSequencer_of_not_busy hb]
  have started {m : Bool} {p : TxPacket} (hp : p.Sendable s.params.payloadCap) (t : State) :
      SendStarted s (startSending m p t) := ⟨rfl, rfl, hp, rfl⟩
  cases hw with
  | send _ _ hl | transact _ _ hl =>
    obtain ⟨hlo, hhi⟩ := txLenCheck_eq_none.mp hl
    exact .inr (.inl (started (TxPacket.sealed_sendable hlo hhi) _))
  | readReg => exact .inr (.inl (started (readPacket_sendable s) _))
  | writeReg8 => exact .inr (.inl (started (write8Packet_sendable s) _))
  | writeReg16 => exact .inr (.inl (started (write16Packet_sendable s) _))
  | receive => exact .inr (.inr ⟨rfl, rfl, rfl⟩)
  | abort hf =>
    have hq : s.sqr.seq ≠ .await := fun hq => by simp [State.busy, hq] at hb
    left; simpa [runCycle, afterHost, abortEffect_of_not_await hq] using hv
  | store r v => left; simpa [runCycle, afterHost, Reg.store_frame] using hv
  | _ => exact .inl hv

theorem seq_of_abortsAwait {s : State} {h : HostWrite} (ha : abortsAwait s h = true) : s.sqr.seq = .await := by
  unfold abortsAwait at ha
  split at ha
  · exact of_decide_eq_true ha
  · cases ha

/-- An ABORT of a response wait leaves the sequencer IDLE and nothing else of it changed (43_controller.md R223). -/
theorem runCycle_sqr_of_abortsAwait {s : State} {h : HostWrite} (hw : IsHostWrite s h)
    (ha : abortsAwait s h = true) : (runCycle s h).sqr = { s.sqr with seq := .idle } := by
  cases hw with
  | abort hf =>
    simp [runCycle, afterHost, abortEffect_of_await (seq_of_abortsAwait ha), afterSequencer, ha]
  | _ => simp [abortsAwait] at ha

end Sys2Proof.Machine

namespace Sys2Proof.Machine

open Sys2Proof

/-! ### The receive unit's part of the invariants -/

/-- I3 of 10_state.md R48, and what R25, R30 and R33 say of the receive unit. -/
structure RxUnit.Inv (cap : Nat) (r : RxUnit) : Prop where
  payloadBounded : r.phase = .payload → 2 ≤ r.len.toNat ∧ r.len.toNat ≤ cap + 2 ∧ r.pos.toNat < r.len.toNat
  canonical : r.pay.wf = true
  bounded : Memory.below cap r.pay = true
  posBounded : r.pos.toNat ≤ r.len.toNat
  readyVerified : r.phase = .ready →
    2 ≤ r.len.toNat ∧ r.len.toNat ≤ cap + 2 ∧ r.pos = r.len ∧ r.cs = checksum r.id r.len r.op r.pay

/-- Outside PAYLOAD and READY only the buffer and RX_POS matter. -/
theorem RxUnit.Inv.of_scanning {cap : Nat} {r : RxUnit} (hp : r.phase ≠ .payload) (hr : r.phase ≠ .ready)
    (hwf : r.pay.wf = true) (hbd : Memory.below cap r.pay = true) (hpos : r.pos.toNat ≤ r.len.toNat) : r.Inv cap :=
  ⟨fun h => absurd h hp, hwf, hbd, hpos, fun h => absurd h hr⟩

theorem RxUnit.Inv.reset {cap : Nat} {r : RxUnit} (h : r.Inv cap) : r.reset.Inv cap :=
  .of_scanning (by simp) (by simp) h.canonical h.bounded (by simp)

theorem RxUnit.Inv.onHeader1 {cap : Nat} {r : RxUnit} (h : r.Inv cap) (b : Byte) : (r.onHeader1 b).Inv cap := by
  unfold RxUnit.onHeader1
  split
  · exact .of_scanning (by simp) (by simp) h.canonical h.bounded h.posBounded
  · exact h

theorem RxUnit.Inv.onHeader2 {cap : Nat} {r : RxUnit} (h : r.Inv cap) (b : Byte) : (r.onHeader2 b).Inv cap :=
  .of_scanning (by rw [RxUnit.onHeader2_phase]; split <;> simp) (by rw [RxUnit.onHeader2_phase]; split <;> simp)
    h.canonical h.bounded h.posBounded

theorem RxUnit.Inv.onPacketId {cap : Nat} {r : RxUnit} (h : r.Inv cap) (b : Byte) : (r.onPacketId b).Inv cap :=
  .of_scanning (by simp) (by simp) h.canonical h.bounded h.posBounded

theorem RxUnit.Inv.onLength {cap : Nat} {r : RxUnit} (h : r.Inv cap) (b : Byte) : (r.onLength cap b).Inv cap := by
  by_cases hb : 2 ≤ b.toNat ∧ b.toNat ≤ cap + 2
  · refine ⟨fun _ => ⟨hb.1, hb.2, ?_⟩, h.canonical, h.bounded, by simp, fun hr => ?_⟩
    · simp only [RxUnit.onLength_pos, RxUnit.onLength_len, BitVec.toNat_zero]; omega
    · simp [hb] at hr
  · exact .of_scanning (by simp [hb]) (by simp [hb]) h.canonical h.bounded (by simp)

/-- A payload-phase byte leaves RX_ID and RX_LEN. -/
theorem RxUnit.storePayloadByte_header (r : RxUnit) (b : Byte) :
    (r.storePayloadByte b).id = r.id ∧ (r.storePayloadByte b).len = r.len := by
  unfold RxUnit.storePayloadByte; split
  · exact ⟨rfl, rfl⟩
  · split <;> exact ⟨rfl, rfl⟩

/-- The last byte of a frame goes to RX_CS (42_monitor.md R176). -/
theorem RxUnit.storePayloadByte_last {r : RxUnit} (hlo : 2 ≤ r.len.toNat) (hlast : r.pos.toNat + 1 = r.len.toNat)
    (b : Byte) : r.storePayloadByte b = { r with cs := b } := by
  have h0 : r.pos ≠ 0#8 := fun h => by simp [h] at hlast; omega
  have hl : ¬ r.pos.toNat < r.len.toNat - 1 := by omega
  simp [RxUnit.storePayloadByte, h0, hl]

/-- A payload-phase byte is stored inside the capacity (42_monitor.md R176). -/
theorem RxUnit.storePayloadByte_pay {cap : Nat} {r : RxUnit} (h : r.Inv cap) (hp : r.phase = .payload) (b : Byte) :
    (r.storePayloadByte b).pay.wf = true ∧ Memory.below cap (r.storePayloadByte b).pay = true := by
  obtain ⟨-, hhi, -⟩ := h.payloadBounded hp
  unfold RxUnit.storePayloadByte
  split
  case isTrue => exact ⟨h.canonical, h.bounded⟩
  case isFalse h0 =>
    split
    case isTrue hlt =>
      have hpos : r.pos.toNat ≠ 0 := fun e => h0 (BitVec.eq_of_toNat_eq e)
      exact ⟨Memory.wf_write h.canonical _ _, Memory.below_write h.bounded (by omega) _⟩
    case isFalse => exact ⟨h.canonical, h.bounded⟩

theorem RxUnit.payloadPhase_eq_payload {r : RxUnit} {b : Byte} (h : r.payloadPhase b = .payload) :
    r.pos.toNat + 1 ≠ r.len.toNat := by
  intro hlast
  unfold RxUnit.payloadPhase at h
  rw [if_pos hlast] at h
  split at h <;> cases h

theorem RxUnit.payloadPhase_eq_ready {r : RxUnit} {b : Byte} (h : r.payloadPhase b = .ready) :
    r.pos.toNat + 1 = r.len.toNat ∧ b = checksum r.id r.len r.op r.pay := by
  unfold RxUnit.payloadPhase at h
  split at h
  case isTrue hlast =>
    split at h
    case isTrue hv => exact ⟨hlast, by simpa [verify] using hv⟩
    case isFalse => cases h
  case isFalse => cases h

theorem RxUnit.Inv.onPayload {cap : Nat} {r : RxUnit} (h : r.Inv cap) (hp : r.phase = .payload) (b : Byte) :
    (r.onPayload b).Inv cap := by
  obtain ⟨hlo, hhi, hlt⟩ := h.payloadBounded hp
  obtain ⟨hwf, hbd⟩ := storePayloadByte_pay h hp b
  obtain ⟨hid, hlen⟩ := r.storePayloadByte_header b
  have hpos : (r.pos + 1#8).toNat = r.pos.toNat + 1 := by
    have := r.len.isLt
    rw [BitVec.toNat_add, BitVec.toNat_ofNat]; omega
  constructor
  case payloadBounded =>
    intro hq
    have hnl := RxUnit.payloadPhase_eq_payload hq
    rw [RxUnit.onPayload_len, RxUnit.onPayload_pos, hlen, hpos]
    omega
  case canonical => exact hwf
  case bounded => exact hbd
  case posBounded => rw [RxUnit.onPayload_len, RxUnit.onPayload_pos, hlen, hpos]; omega
  case readyVerified =>
    intro hq
    obtain ⟨hlast, hcs⟩ := RxUnit.payloadPhase_eq_ready hq
    have hend : r.pos + 1#8 = r.len := BitVec.eq_of_toNat_eq (by rw [hpos, hlast])
    simp [RxUnit.storePayloadByte_last hlo hlast, hlo, hhi, hend, hcs]

/-- Every consumed byte keeps the receive unit's invariants (42_monitor.md R172). -/
theorem RxUnit.Inv.consume {cap : Nat} {r : RxUnit} (h : r.Inv cap) (b : Byte) : (r.consume cap b).Inv cap := by
  unfold RxUnit.consume
  cases hp : r.phase with
  | header1 => exact h.onHeader1 b
  | header2 => exact h.onHeader2 b
  | packetId => exact h.onPacketId b
  | length => exact h.onLength b
  | payload => exact h.onPayload hp b
  | ready => exact h

theorem runCycle_rx_inv {s : State} {h : HostWrite} (hw : IsHostWrite s h) {cap : Nat} (hc : s.params.payloadCap = cap)
    (hi : s.rx.Inv cap) : (runCycle s h).rx.Inv cap := by
  have hu : (afterDeserializer s h).rx.Inv cap := by
    rw [afterDeserializer_rx, hc]; split
    · exact hi.consume _
    · exact hi
  have hv : (afterSequencer s h).rx.Inv cap := by
    rcases afterSequencer_rx s h with e | e <;> rw [e]
    · exact hu
    · exact hu.reset
  rcases runCycle_rx hw with e | e <;> rw [e]
  · exact hv
  · exact hv.reset

/-! ### The FIFO's part of the invariants -/

/-- Cursors in range (44_circular_buffer.md R256) and FIFO_MEM in canonical form inside its capacity. -/
structure Fifo.Inv (d : Nat) (f : Fifo) : Prop where
  wrInRange : f.wr < 2 * d
  rdInRange : f.rd < 2 * d
  canonical : f.mem.wf = true
  bounded : Memory.below d f.mem = true

theorem Fifo.Inv.push {d : Nat} {f : Fifo} (h : f.Inv d) (hd : 0 < d) (b : Byte) : (f.push d b).Inv d :=
  ⟨Nat.mod_lt _ (by omega), h.rdInRange, Memory.wf_write h.canonical _ _,
    Memory.below_write h.bounded (Nat.mod_lt _ hd) _⟩

theorem Fifo.Inv.flush {d : Nat} {f : Fifo} (h : f.Inv d) : f.flush.Inv d :=
  ⟨h.wrInRange, h.wrInRange, h.canonical, h.bounded⟩

/-- I6 of 10_state.md R48 holds whatever the cursors, because Count is a residue modulo 2*D. -/
theorem Fifo.count_le {d : Nat} (hd : 0 < d) (f : Fifo) : f.count d ≤ 2 * d - 1 := by
  have hlt := Int.emod_lt_of_pos ((f.wr : Int) - f.rd) (show (0 : Int) < ((2 * d : Nat) : Int) by omega)
  unfold Fifo.count
  omega

theorem Fifo.count_of_empty {d : Nat} {f : Fifo} (h : f.rd = f.wr) : f.count d = 0 := by simp [Fifo.count, h]

theorem afterIngress_fifo_inv {s : State} (h : s.fifo.Inv s.params.fifoDepth) :
    (afterIngress s).fifo.Inv s.params.fifoDepth := by
  rw [afterIngress_fifo]; split
  · exact h.push (Params.fifoDepth_pos s.params) _
  · exact h

theorem afterDeserializer_fifo_inv {s : State} (h : s.fifo.Inv s.params.fifoDepth) (w : HostWrite) :
    (afterDeserializer s w).fifo.Inv s.params.fifoDepth := by
  obtain ⟨hwr, -, hwf, hbd⟩ := afterIngress_fifo_inv h
  refine ⟨by simpa using hwr, ?_, by simpa using hwf, by simpa using hbd⟩
  rw [afterDeserializer_fifo_rd]; split
  · exact Nat.mod_lt _ (by have := (Params.fifoDepth_pos s.params); omega)
  · exact h.rdInRange

theorem runCycle_fifo_inv {s : State} {w : HostWrite} (hw : IsHostWrite s w) (h : s.fifo.Inv s.params.fifoDepth) :
    (runCycle s w).fifo.Inv s.params.fifoDepth := by
  rcases runCycle_fifo hw with e | e <;> rw [e]
  · exact afterDeserializer_fifo_inv h w
  · exact (afterDeserializer_fifo_inv h w).flush

theorem rxEn_eq_false_iff (s : State) : rxEn s = false ↔ s.sqr.seq = .sending ∨ s.sqr.seq = .guard := by
  unfold rxEn; cases s.sqr.seq <;> simp

theorem afterIngress_fifo_of_transmitting {s : State} (h : s.sqr.seq = .sending ∨ s.sqr.seq = .guard) :
    (afterIngress s).fifo = s.fifo := by
  rw [afterIngress_fifo, (rxEn_eq_false_iff s).mpr h]; simp

theorem pops_of_empty {s : State} (h : s.fifoCount = 0) (w : HostWrite) : pops s w = false := by simp [pops, h]

/-- While the block transmits, an empty FIFO stays empty: nothing is pushed and nothing is there to pop (10_state.md R36,
R43, R44). -/
theorem runCycle_count_of_transmitting {s : State} {w : HostWrite} (hw : IsHostWrite s w)
    (hs : s.sqr.seq = .sending ∨ s.sqr.seq = .guard) (hc : s.fifoCount = 0) :
    (runCycle s w).fifo.count s.params.fifoDepth = 0 := by
  have hu : (afterDeserializer s w).fifo = s.fifo := by
    simp [afterDeserializer, pops_of_empty hc, afterIngress_fifo_of_transmitting hs]
  rcases runCycle_fifo hw with e | e <;> rw [e, hu]
  · exact hc
  · exact Fifo.count_flush _ _

/-! ### The TX buffer's part of the invariants -/

/-- A byte buffer in canonical form and inside its capacity (10_state.md R25). -/
def Memory.Good (cap : Nat) (m : Memory) : Prop := m.wf = true ∧ Memory.below cap m = true

theorem Memory.Good.write {cap : Nat} {m : Memory} (h : m.Good cap) {a : Nat} (ha : a < cap) (b : Byte) :
    (m.write a b).Good cap := ⟨Memory.wf_write h.1 a b, Memory.below_write h.2 ha b⟩

/-- The TX_PAY window of the map lies inside the capacity (20_memory.md R61). -/
theorem lt_payloadCap_of_regAt_txPay {p : Params} {a : Addr} {i : Nat} (h : regAt p a = .txPay i) :
    i < p.payloadCap := by
  unfold regAt at h
  split at h <;> try cases h
  split at h
  case isTrue hin => have := Reg.txPay.inj h; omega
  case isFalse => split at h <;> cases h

theorem Reg.store_tx_good {cap : Nat} {r : Reg} {t : State} (hr : ∀ i, r = .txPay i → i < cap)
    (h : t.tx.pay.Good cap) (v : Byte) : (r.store v t).tx.pay.Good cap := by
  cases r with
  | txPay i => exact h.write (hr i rfl) v
  | _ => exact h

/-- The builders write the first two or three payload bytes, inside every legal capacity (41_builder.md R151 to R153). -/
theorem builtPackets_good {s : State} (h : s.tx.pay.Good s.params.payloadCap) :
    (readPacket s).pay.Good s.params.payloadCap ∧ (write8Packet s).pay.Good s.params.payloadCap ∧
      (write16Packet s).pay.Good s.params.payloadCap := by
  have hcap := s.params.capLegal
  have h2 (b c : Byte) : ((s.tx.pay.write 0 b).write 1 c).Good s.params.payloadCap :=
    (h.write (by omega) b).write (by omega) c
  exact ⟨h2 _ _, h2 _ _, (h2 _ _).write (by omega) _⟩

theorem runCycle_tx_good {s : State} {w : HostWrite} (hw : IsHostWrite s w)
    (h : s.tx.pay.Good s.params.payloadCap) : (runCycle s w).tx.pay.Good s.params.payloadCap := by
  obtain ⟨hread, hwrite8, hwrite16⟩ := builtPackets_good h
  have hv : (afterSequencer s w).tx.pay.Good s.params.payloadCap := by simpa using h
  cases hw with
  | store r v _ _ hr _ =>
    exact Reg.store_tx_good (fun i hi => lt_payloadCap_of_regAt_txPay (hr.symm.trans hi)) hv v
  | send | transact => exact h
  | buildRead | readReg => exact hread
  | buildWrite8 | writeReg8 => exact hwrite8
  | buildWrite16 | writeReg16 => exact hwrite16
  | abort hf =>
    show (abortEffect s (afterSequencer s (.cmd .abort abortEffect))).tx.pay.Good _
    unfold abortEffect
    split <;> exact hv
  | _ => exact hv

/-! ### The transaction's part of the invariants: what each state of the sequencer requires -/

/-- I1, I2, I4 and I5 of 10_state.md R48 and the counters' bounds of R32. Each speaks of a BUSY state alone. -/
structure TransactionInv (s : State) : Prop where
  lineQuiet : s.sqr.seq = .sending ∨ s.sqr.seq = .guard → s.fifoCount = 0
  awaitNotReady : s.sqr.seq = .await → s.rx.phase ≠ .ready
  frameSealed : s.sqr.seq = .sending ∨ s.sqr.seq = .guard → s.tx.Sendable s.params.payloadCap
  indexInFrame : s.sqr.seq = .sending → s.sqr.txIdx.toNat < s.tx.len.toNat + 4
  tmrBounded : s.sqr.seq = .await → s.sqr.tmr.toNat ≤ s.regs.timeout.toNat
  gcntBounded : s.sqr.seq = .guard → s.sqr.gcnt.toNat ≤ s.regs.guard.toNat

theorem TransactionInv.of_not_busy {s : State} (hb : s.busy = false) : TransactionInv s := by
  have hq : s.sqr.seq ≠ .sending ∧ s.sqr.seq ≠ .guard ∧ s.sqr.seq ≠ .await := by
    unfold State.busy at hb
    cases hs : s.sqr.seq <;> simp [hs] at hb ⊢
  constructor <;> intro h <;> simp [hq] at h

theorem TransactionInv.of_sendStarted {s t : State} (hp : t.params = s.params) (h : SendStarted s t) :
    TransactionInv t := by
  obtain ⟨hs, hidx, hsend, hempty⟩ := h
  constructor
  case lineQuiet => exact fun _ => Fifo.count_of_empty hempty
  case frameSealed => exact fun _ => hp ▸ hsend
  case indexInFrame => intro _; simp [hidx]
  all_goals intro hq; rw [hs] at hq; cases hq

theorem TransactionInv.of_waitStarted {t : State} (h : WaitStarted t) : TransactionInv t := by
  obtain ⟨hs, htmr, hphase⟩ := h
  constructor
  case awaitNotReady => intro _; simp [hphase]
  case tmrBounded => intro _; simp [htmr]
  all_goals intro hq; simp [hs] at hq

/-- A 32-bit counter that has not reached its bound stays at most it when it counts (10_state.md R32). -/
theorem counter_succ_le {c m : Word32} (h : c.toNat ≤ m.toNat) (hne : c ≠ m) : (c + 1#32).toNat ≤ m.toNat := by
  bv_omega

/-- A SENDING cycle that stays in SENDING keeps TX_IDX inside the frame (43_controller.md R230). -/
theorem seqStep_sending_inv {s t : State} {txReady : Bool} (ht : t.sqr = s.sqr)
    (hi : s.sqr.seq = .sending → s.sqr.txIdx.toNat < s.tx.len.toNat + 4)
    (hq : (seqStep s t txReady).sqr.seq = .sending) :
    s.sqr.seq = .sending ∧ (seqStep s t txReady).sqr.txIdx.toNat < s.tx.len.toNat + 4 := by
  rcases seqStep_cases s t txReady with
    ⟨hs, -, e⟩ | ⟨-, -, -, e⟩ | ⟨hs, -, hne, e⟩ | ⟨-, -, -, e⟩ | ⟨-, -, -, e⟩ | ⟨hs, -, e⟩ | ⟨-, -, e⟩ | ⟨-, -, -, e⟩ |
    ⟨hs, -, -, e⟩ | ⟨hs, e⟩
  case inl => exact ⟨hs, by rw [e, ht]; exact hi hs⟩
  case inr.inr.inl =>
    have := hi hs
    have := s.tx.len.isLt
    exact ⟨hs, by rw [e]; bv_omega⟩
  all_goals simp_all

/-- A cycle that ends in GUARD began while transmitting, and keeps GCNT at most GUARD (43_controller.md R231). -/
theorem seqStep_guard_inv {s t : State} {txReady : Bool} (ht : t.sqr = s.sqr)
    (hi : s.sqr.seq = .guard → s.sqr.gcnt.toNat ≤ s.regs.guard.toNat)
    (hq : (seqStep s t txReady).sqr.seq = .guard) :
    (s.sqr.seq = .sending ∨ s.sqr.seq = .guard) ∧ (seqStep s t txReady).sqr.gcnt.toNat ≤ s.regs.guard.toNat := by
  rcases seqStep_cases s t txReady with
    ⟨hs, -, e⟩ | ⟨hs, -, -, e⟩ | ⟨hs, -, -, e⟩ | ⟨-, -, -, e⟩ | ⟨-, -, -, e⟩ | ⟨hs, hne, e⟩ | ⟨-, -, e⟩ | ⟨-, -, -, e⟩ |
    ⟨hs, -, -, e⟩ | ⟨hs, e⟩
  case inr.inl => exact ⟨.inl hs, by simp [e]⟩
  case inr.inr.inr.inr.inr.inl => exact ⟨.inr hs, by rw [e]; exact counter_succ_le (hi hs) hne⟩
  all_goals simp_all

/-- A cycle that ends in AWAIT leaves the deserializer outside READY and TMR at most TIMEOUT (43_controller.md R231,
R232). -/
theorem seqStep_await_inv {s t : State} {txReady : Bool} (ht : t.sqr = s.sqr)
    (hi : s.sqr.seq = .await → s.sqr.tmr.toNat ≤ s.regs.timeout.toNat)
    (hq : (seqStep s t txReady).sqr.seq = .await) :
    (seqStep s t txReady).rx.phase ≠ .ready ∧ (seqStep s t txReady).sqr.tmr.toNat ≤ s.regs.timeout.toNat := by
  rcases seqStep_cases s t txReady with
    ⟨hs, -, e⟩ | ⟨-, -, -, e⟩ | ⟨hs, -, -, e⟩ | ⟨-, -, -, e⟩ | ⟨-, -, -, e⟩ | ⟨hs, -, e⟩ | ⟨-, -, e⟩ | ⟨-, -, -, e⟩ |
    ⟨hs, hp, hne, e⟩ | ⟨hs, e⟩
  case inr.inr.inr.inl => simp [e]
  case inr.inr.inr.inr.inr.inr.inr.inr.inl =>
    exact ⟨by rw [e]; exact hp, by rw [e]; exact counter_succ_le (hi hs) hne⟩
  all_goals simp_all

/-- A BUSY cycle that no ABORT ends moves by the sequencer's own step (43_controller.md R230 to R232). -/
theorem TransactionInv.runCycle_of_busy {s : State} {w : HostWrite} (hw : IsHostWrite s w) (hb : s.busy = true)
    (ha : abortsAwait s w = false) (h : TransactionInv s) : TransactionInv (runCycle s w) := by
  obtain ⟨htx, htimeout, hguard, hsqr⟩ := Machine.runCycle_of_busy hw hb
  replace hsqr := hsqr ha
  obtain ⟨hparams, -, -⟩ := runCycle_clock hw
  have hu : (afterDeserializer s w).sqr = s.sqr := afterDeserializer_sqr s w
  have hsending := fun hq => seqStep_sending_inv (txReady := s.input.txReady) hu h.indexInFrame hq
  have hguarding := fun hq => seqStep_guard_inv (txReady := s.input.txReady) hu h.gcntBounded hq
  have hawaiting := fun hq => seqStep_await_inv (txReady := s.input.txReady) hu h.tmrBounded hq
  rw [← hsqr] at hsending hguarding hawaiting
  have hfrom : (runCycle s w).sqr.seq = .sending ∨ (runCycle s w).sqr.seq = .guard →
      s.sqr.seq = .sending ∨ s.sqr.seq = .guard := by
    rintro (hq | hq)
    · exact .inl (hsending hq).1
    · exact (hguarding hq).1
  constructor
  case lineQuiet =>
    intro hq
    rw [State.fifoCount, hparams]
    exact runCycle_count_of_transmitting hw (hfrom hq) (h.lineQuiet (hfrom hq))
  case awaitNotReady =>
    intro hq
    have hv : (afterSequencer s w).rx.phase ≠ .ready := by
      simpa [afterSequencer, ha] using (hawaiting hq).1
    rcases runCycle_rx hw with e | e <;> simp [e, hv]
  case frameSealed => intro hq; rw [hparams, htx]; exact h.frameSealed (hfrom hq)
  case indexInFrame => intro hq; rw [htx]; exact (hsending hq).2
  case tmrBounded => intro hq; rw [htimeout]; exact (hawaiting hq).2
  case gcntBounded => intro hq; rw [hguard]; exact (hguarding hq).2

theorem TransactionInv.runCycle {s : State} {w : HostWrite} (hw : IsHostWrite s w) (h : TransactionInv s) :
    TransactionInv (runCycle s w) := by
  have hparams : (Machine.runCycle s w).params = s.params := (runCycle_clock hw).1
  cases hb : s.busy with
  | false =>
    rcases runCycle_of_not_busy hw hb with hsqr | hsend | hwait
    · exact .of_not_busy (by simpa [State.busy, hsqr] using hb)
    · exact .of_sendStarted hparams hsend
    · exact .of_waitStarted hwait
  | true =>
    cases ha : abortsAwait s w with
    | true => exact .of_not_busy (by simp [State.busy, runCycle_sqr_of_abortsAwait hw ha])
    | false => exact h.runCycle_of_busy hw hb ha

/-! ### The invariants by their parts -/

/-- The invariants of 10_state.md R48 with R25, R30, R32 and R256 are those of the receive unit, the FIFO, the TX buffer
and the transaction. -/
theorem stateInv_iff (s : State) : StateInv s ↔
    s.rx.Inv s.params.payloadCap ∧ s.fifo.Inv s.params.fifoDepth ∧ s.tx.pay.Good s.params.payloadCap ∧
      TransactionInv s := by
  constructor
  · rintro ⟨⟨hline, hready, hpay, hsealed, hidx, -⟩,
      ⟨⟨hwr, hrd⟩, ⟨htxwf, hrxwf, hmemwf⟩, ⟨htxbd, hrxbd, hmembd⟩, hpos, hverified, htmr, hgcnt⟩⟩
    exact ⟨⟨hpay, hrxwf, hrxbd, hpos, hverified⟩, ⟨hwr, hrd, hmemwf, hmembd⟩, ⟨htxwf, htxbd⟩,
      ⟨hline, hready, hsealed, hidx, htmr, hgcnt⟩⟩
  · rintro ⟨⟨hpay, hrxwf, hrxbd, hpos, hverified⟩, ⟨hwr, hrd, hmemwf, hmembd⟩, ⟨htxwf, htxbd⟩,
      ⟨hline, hready, hsealed, hidx, htmr, hgcnt⟩⟩
    exact ⟨⟨hline, hready, hpay, hsealed, hidx, Fifo.count_le (Params.fifoDepth_pos s.params) _⟩,
      ⟨⟨hwr, hrd⟩, ⟨htxwf, hrxwf, hmemwf⟩, ⟨htxbd, hrxbd, hmembd⟩, hpos, hverified, htmr, hgcnt⟩⟩

theorem stateInv_resetWith (p : Params) (cycle : Nat) (inputs : List CycleInput) :
    StateInv (State.resetWith p cycle inputs) := by
  have hd : 0 < 2 * p.fifoDepth := by have := Params.fifoDepth_pos p; omega
  exact (stateInv_iff _).mpr ⟨.of_scanning nofun nofun rfl rfl le_rfl, ⟨hd, hd, rfl, rfl⟩, ⟨rfl, rfl⟩,
    .of_not_busy rfl⟩

theorem StateInv.runCycle {s : State} {w : HostWrite} (hw : IsHostWrite s w) (h : StateInv s) :
    StateInv (runCycle s w) := by
  obtain ⟨hrx, hfifo, htx, htrans⟩ := (stateInv_iff s).mp h
  rw [stateInv_iff, (runCycle_clock hw).1]
  exact ⟨runCycle_rx_inv hw rfl hrx, runCycle_fifo_inv hw hfifo, runCycle_tx_good hw htx, htrans.runCycle hw⟩

theorem StateInv.step {s t : State} (h : StateInv s) (hst : step s = .next t) : StateInv t := by
  rcases step_cases hst with ⟨-, rfl⟩ | ⟨-, w, hw, rfl⟩
  · exact stateInv_resetWith _ _ _
  · exact h.runCycle hw

theorem Reachable.stateInv {s : State} (h : Reachable s) : StateInv s := by
  induction h with
  | reset p cycle inputs => exact stateInv_resetWith p cycle inputs
  | step _ hst ih => exact ih.step hst

/-- Settles O58: each part of the invariants is kept by its own lemma. -/
theorem stepKeepsInv : Obligations.StepKeepsInv := fun _ _ h hst => h.step hst

/-- Settles O59, by induction on the run: the rule invariants are part of an inductive invariant. -/
theorem ruleInvariantsHoldWhenReachable : Obligations.RuleInvariantsHoldWhenReachable := fun _ h => h.stateInv.rules

/-- Settles O57: empty buffers, equal cursors, a scanning deserializer, and a sequencer that is not BUSY. -/
theorem invHoldsAtReset : Obligations.InvHoldsAtReset := stateInv_resetWith

end Sys2Proof.Machine

namespace Sys2Proof.Machine

open Sys2Proof

/-! ### The frame of a command -/

/-- What no effect of a command changes in phase 5: the registers, the FIFO's write side, TX_ID as the pre-state has it,
and the environment's part of the state. -/
structure CommandFrame (s t u : State) : Prop where
  regs : u.regs = t.regs
  txId : t.tx.id = s.tx.id → u.tx.id = s.tx.id
  mem : u.fifo.mem = t.fifo.mem
  wr : u.fifo.wr = t.fifo.wr
  params : u.params = t.params
  inputs : u.inputs = t.inputs
  cycle : u.cycle = t.cycle

theorem CommandFrame.refl (s t : State) : CommandFrame s t t := ⟨rfl, id, rfl, rfl, rfl, rfl, rfl⟩

theorem CommandFrame.abortEffect (s t : State) : CommandFrame s t (abortEffect s t) := by
  unfold Machine.abortEffect; split
  · exact ⟨rfl, id, rfl, rfl, rfl, rfl, rfl⟩
  · exact .refl s t

/-- Every command's cycle ends with phase 5 keeping the host's registers and the FIFO's write side. -/
theorem exec_commandFrame (i : Instr) (s : State) :
    ∃ h, exec i s = .next (runCycle s h) ∧ CommandFrame s (afterSequencer s h) (afterHost s h) := by
  have run {c : Instr} {checks : List (Option ErrCode)} {effect : State → State → State}
      (he : ∀ t, CommandFrame s t (effect s t)) :
      ∃ h, Host.Outcome.next (ρ := Refusal) (φ := Fault) (commandCycle s c checks effect) = .next (runCycle s h) ∧
        CommandFrame s (afterSequencer s h) (afterHost s h) := by
    rcases commandCycle_cases s c checks effect with ⟨e, h⟩ | ⟨-, h⟩
    · exact ⟨_, congrArg _ h, .refl _ _⟩
    · exact ⟨_, congrArg _ h, he _⟩
  cases i with
  | nop | reserved _ => exact run fun t => .refl s t
  | rxReset | fifoFlush | setChecksum | receive => exact run fun t => ⟨rfl, id, rfl, rfl, rfl, rfl, rfl⟩
  | buildRead | buildWrite8 | buildWrite16 | send | transact | readReg | writeReg8 | writeReg16 =>
    exact run fun t => ⟨rfl, fun _ => rfl, rfl, rfl, rfl, rfl, rfl⟩
  | abort => exact run fun t => .abortEffect s t

/-- Phases 2 to 4 change the write side of the FIFO by the arriving byte alone (10_state.md R43). -/
theorem afterSequencer_ingressOnly (s : State) (h : HostWrite) : ingressOnly s (afterSequencer s h) :=
  ingressOnly_congr (by simp) (by simp) (afterIngress_ingressOnly s)

/-- Settles O33: phases 2 to 4 keep the host's registers, and so does every command's effect. -/
theorem commandsKeepHostRegisters : Obligations.CommandsKeepHostRegisters := by
  intro i s t ht
  obtain ⟨h, he, hf⟩ := exec_commandFrame i s
  obtain rfl : runCycle s h = t := Host.Outcome.next.inj (he.symm.trans ht)
  have hregs : (afterHost s h).regs = s.regs := by rw [hf.regs, afterSequencer_regs]
  have hid : (afterHost s h).tx.id = s.tx.id := hf.txId (by simp)
  refine ⟨?_, ?_, ingressOnly_congr hf.wr hf.mem (afterSequencer_ingressOnly s h)⟩
  · simp [hostRegistersKept, runCycle, hregs, hid]
  · simp [clockAdvanced, runCycle, hf.params, hf.inputs, hf.cycle]

/-! ### The cycle with no host write -/

theorem cycleEvents_none_cmdErr (s : State) : (cycleEvents s .none).cmdErr = false := rfl

/-- With no host write a STATUS bit is kept or set by its event (10_state.md R47). -/
theorem quietCycle_status_getLsbD (s : State) {i : Nat} (hi : i < 5) :
    (quietCycle s).regs.status.getLsbD i = (s.regs.status.getLsbD i || (cycleEvents s .none).bits.getLsbD i) := by
  simp [nextStatus_getLsbD _ _ _ hi, HostWrite.w1cMask]

theorem quietCycle_ingressOnly (s : State) : ingressOnly s (quietCycle s) :=
  ingressOnly_congr rfl rfl (afterSequencer_ingressOnly s .none)

/-- Settles O8: without a host write phases 2 to 4 are the whole cycle, and they raise no refusal. -/
theorem cycleWithoutWriteKeepsHostState : Obligations.CycleWithoutWriteKeepsHostState := by
  intro s
  refine ⟨step_of_no_write, quietCycle_tx s, by simp [hostRegistersKept], by simp, ?cmdErr, ?statusKept, ?idleKept,
    quietCycle_ingressOnly s, by simp [clockAdvanced]⟩
  case cmdErr =>
    obtain ⟨-, -, -, -, h4⟩ := Events.getLsbD_bits (cycleEvents s .none)
    rw [quietCycle_status_getLsbD s (by omega), h4, cycleEvents_none_cmdErr, Bool.or_false]
  case statusKept => intro i hi h; rw [quietCycle_status_getLsbD s hi, h, Bool.true_or]
  case idleKept => intro hb; simp [afterSequencer_of_not_busy hb]

/-- A write to STATUS is the cycle with no host write but for STATUS and ERR (10_state.md R47; 20_memory.md R63). -/
theorem runCycle_status_write (s : State) (w : BitVec 5) :
    let h : HostWrite := .reg w fun _ t => t
    runCycle s h = { quietCycle s with
      regs := { (quietCycle s).regs with status := nextStatus s h (cycleEvents s .none), err := nextErr s h } } := rfl

theorem step_of_status_write {s : State} (hr : s.input.rst = false) (hw : s.input.busWe = true)
    (ha : s.input.busAddr = 0x001#10) :
    step s = .next (runCycle s (.reg (s.input.busWdata.truncate 5) fun _ t => t)) := by
  have hreg : regAt s.params 0x001#10 = .status := rfl
  rw [step_of_register_write hr hw (by simp [ha]), ha, hreg]
  rfl

/-- Settles O13: the STATUS bits by the rule of phase 6, with the written byte as the clear mask. -/
theorem statusWriteClearsWrittenBits : Obligations.StatusWriteClearsWrittenBits := by
  intro s hr hw ha
  have hmask (i : Nat) (hi : i < 5) : (s.input.busWdata.truncate 5).getLsbD i = s.input.busWdata.getLsbD i := by
    simp [hi]
  refine ⟨_, step_of_status_write hr hw ha, fun i hi => ?_, ?_, runCycle_status_write s _⟩
  · rw [runCycle_status, nextStatus_getLsbD _ _ _ hi, ← hmask i hi]
    rfl
  · rw [runCycle_err, ← hmask 4 (by omega)]
    rfl

/-! ### Events, in terms of the two states of a step -/

/-- Where phase 5 moves SEQ, phase 4 did not, and the move is no end of a transaction: it leaves no guard interval and enters
neither COMPLETE nor TIMEDOUT (43_controller.md R233). -/
theorem runCycle_seq {s : State} {h : HostWrite} (hw : IsHostWrite s h) :
    (runCycle s h).sqr.seq = (afterSequencer s h).sqr.seq ∨
      (afterSequencer s h).sqr.seq = s.sqr.seq ∧ s.sqr.seq ≠ .guard ∧ (runCycle s h).sqr.seq ≠ .guard ∧
        (runCycle s h).sqr.seq ≠ .complete ∧ (runCycle s h).sqr.seq ≠ .timedOut := by
  cases hb : s.busy with
  | false =>
    have hv : (afterSequencer s h).sqr.seq = s.sqr.seq := by simp [afterSequencer_of_not_busy hb]
    have hg : s.sqr.seq ≠ .guard := fun hg => by simp [State.busy, hg] at hb
    rcases runCycle_of_not_busy hw hb with e | ⟨e, -⟩ | ⟨e, -⟩
    · exact .inl (by rw [e, hv])
    · exact .inr ⟨hv, hg, by simp [e]⟩
    · exact .inr ⟨hv, hg, by simp [e]⟩
  | true =>
    cases ha : abortsAwait s h with
    | true =>
      have hv : (afterSequencer s h).sqr.seq = s.sqr.seq := by simp [afterSequencer, ha]
      exact .inr ⟨hv, by simp [seq_of_abortsAwait ha], by simp [runCycle_sqr_of_abortsAwait hw ha]⟩
    | false =>
      obtain ⟨-, -, -, hsqr⟩ := runCycle_of_busy hw hb
      exact .inl (by rw [hsqr ha]; simp [afterSequencer, ha])

/-- A transaction's end, told from the two states of a cycle. -/
theorem enters_iff {s : State} {h : HostWrite} (hw : IsHostWrite s h) {q : SeqState} (hq : q = .complete ∨ q = .timedOut) :
    (s.sqr.seq ≠ q ∧ (afterSequencer s h).sqr.seq = q) ↔ s.sqr.seq ≠ q ∧ (runCycle s h).sqr.seq = q := by
  rcases runCycle_seq hw with e | ⟨e, -, -, hc, ht⟩
  · rw [e]
  · have hn : (runCycle s h).sqr.seq ≠ q := by rcases hq with rfl | rfl <;> assumption
    rw [e]
    exact ⟨fun ⟨a, b⟩ => absurd b a, fun ⟨_, b⟩ => absurd b hn⟩

/-- The end of a guard interval, told from the two states of a cycle. -/
theorem leaves_guard_iff {s : State} {h : HostWrite} (hw : IsHostWrite s h) :
    (s.sqr.seq = .guard ∧ (afterSequencer s h).sqr.seq ≠ .guard) ↔
      s.sqr.seq = .guard ∧ (runCycle s h).sqr.seq ≠ .guard := by
  rcases runCycle_seq hw with e | ⟨-, hg, -⟩
  · rw [e]
  · simp [hg]

/-- A cycle whose deserializer enters READY popped a byte: its write is not RX-affecting and the FIFO was not empty. -/
theorem pops_of_enters_ready {s : State} {h : HostWrite} (hs : s.rx.phase ≠ .ready)
    (hu : (afterDeserializer s h).rx.phase = .ready) : rxAffecting s h = false ∧ s.fifoCount ≠ 0 := by
  rw [afterDeserializer_rx] at hu
  split at hu
  case isTrue hp => exact ⟨((pops_iff s h).mp hp).1, ((pops_iff s h).mp hp).2.2⟩
  case isFalse => exact absurd hu hs

/-- Entering READY, told from the two states of a cycle; I1 of 10_state.md R48 keeps a guard end from undoing it. -/
theorem enters_ready_iff {s : State} {h : HostWrite} (hw : IsHostWrite s h) (hI1 : s.sqr.seq = .guard → s.fifoCount = 0) :
    (s.rx.phase ≠ .ready ∧ (afterDeserializer s h).rx.phase = .ready) ↔
      s.rx.phase ≠ .ready ∧ (runCycle s h).rx.phase = .ready := by
  refine and_congr_right fun hs => ⟨fun hu => ?_, fun ht => ?_⟩
  · obtain ⟨hr, hc⟩ := pops_of_enters_ready hs hu
    have hkeep : ¬sequencerResetsRx s (afterDeserializer s h).rx := by
      rintro (⟨hg, -⟩ | ⟨-, hp, -⟩)
      · exact hc (hI1 hg)
      · exact hp hu
    have hv : (afterSequencer s h).rx = (afterDeserializer s h).rx := by
      unfold afterSequencer
      split
      · rfl
      · exact seqStep_rx_of_not_resets hkeep _
    rcases runCycle_rx_of_rxAffecting hw with e | ⟨hr', -⟩
    · rw [e, hv, hu]
    · rw [hr] at hr'; cases hr'
  · rcases runCycle_rx hw with e | e <;> rw [e] at ht
    · rcases afterSequencer_rx s h with e | e <;> rw [e] at ht
      · exact ht
      · simp at ht
    · simp at ht

theorem HostWrite.isRefused_iff (h : HostWrite) : h.isRefused = true ↔ ∃ e, h = .refused e := by
  cases h <;> simp [HostWrite.isRefused]

theorem nextErr_of_not_refused {s : State} {h : HostWrite} (hn : ∀ e, h ≠ .refused e) :
    nextErr s h = if h.w1cMask.getLsbD 4 then .none else s.regs.err := by
  cases h with
  | refused e => exact absurd rfl (hn e)
  | _ => rfl

/-- A STATUS bit is 1 after a cycle exactly when it was 1 and is not cleared, or its event occurs (10_state.md R47). -/
theorem runCycle_status_iff (s : State) (h : HostWrite) {i : Nat} (hi : i < 5) :
    (runCycle s h).regs.status.getLsbD i = true ↔
      (s.regs.status.getLsbD i = true ∧ h.w1cMask.getLsbD i = false) ∨ (cycleEvents s h).bits.getLsbD i = true := by
  rw [runCycle_status, nextStatus_getLsbD _ _ _ hi]
  simp

/-- The STATUS bits after a cycle, each with its event (20_memory.md R66). -/
theorem runCycle_status_events (s : State) (h : HostWrite) :
    let u := afterDeserializer s h
    let v := afterSequencer s h
    let t := runCycle s h
    let kept (i : Nat) : Prop := s.regs.status.getLsbD i = true ∧ h.w1cMask.getLsbD i = false
    (t.regs.status.getLsbD 0 = true ↔ kept 0 ∨ s.sqr.seq ≠ .complete ∧ v.sqr.seq = .complete) ∧
    (t.regs.status.getLsbD 1 = true ↔ kept 1 ∨ s.sqr.seq ≠ .timedOut ∧ v.sqr.seq = .timedOut) ∧
    (t.regs.status.getLsbD 2 = true ↔ kept 2 ∨ s.sqr.seq = .guard ∧ v.sqr.seq ≠ .guard) ∧
    (t.regs.status.getLsbD 3 = true ↔ kept 3 ∨ s.rx.phase ≠ .ready ∧ u.rx.phase = .ready) ∧
    (t.regs.status.getLsbD 4 = true ↔ kept 4 ∨ ∃ e, h = .refused e) := by
  dsimp only
  obtain ⟨h0, h1, h2, h3, h4⟩ := Events.getLsbD_bits (cycleEvents s h)
  simp only [runCycle_status_iff s h (show 0 < 5 by omega), runCycle_status_iff s h (show 1 < 5 by omega),
    runCycle_status_iff s h (show 2 < 5 by omega), runCycle_status_iff s h (show 3 < 5 by omega),
    runCycle_status_iff s h (show 4 < 5 by omega), h0, h1, h2, h3, h4]
  simp only [cycleEvents, eventsOf, decide_eq_true_eq, HostWrite.isRefused_iff, and_self]

/-- Settles O14: the events are those of phases 3 and 4, and phase 5 hides none of them. -/
theorem eventsSetStatusBits : Obligations.EventsSetStatusBits := by
  refine ⟨fun s h => ?cycle, fun s t hr ht => ?steps, fun i s t ht => ?commands, fun s t hr ht => ?twoStates⟩
  case cycle =>
    obtain ⟨h0, h1, h2, h3, h4⟩ := runCycle_status_events s h
    exact ⟨h0, h1, h2, h3, h4, fun e he => by rw [runCycle_err, he]; rfl, fun hn => nextErr_of_not_refused hn⟩
  case steps =>
    obtain ⟨h, -, he, hm⟩ := step_eq_runCycle hr
    exact ⟨h, Host.Outcome.next.inj (ht.symm.trans he), hm⟩
  case commands =>
    obtain ⟨h, he, hm⟩ := exec_eq_runCycle i s
    exact ⟨h, Host.Outcome.next.inj (ht.symm.trans he), hm⟩
  case twoStates =>
    obtain ⟨h, hw, he, hm⟩ := step_eq_runCycle hr
    obtain rfl : runCycle s h = t := Host.Outcome.next.inj (he.symm.trans ht)
    obtain ⟨h0, h1, h2, h3, -⟩ := runCycle_status_events s h
    simp only [hm, enters_iff hw (.inl rfl), enters_iff hw (.inr rfl), leaves_guard_iff hw,
      statusClearMask_getLsbD_eq_false s.input (show 0 < 5 by omega),
      statusClearMask_getLsbD_eq_false s.input (show 1 < 5 by omega),
      statusClearMask_getLsbD_eq_false s.input (show 2 < 5 by omega),
      statusClearMask_getLsbD_eq_false s.input (show 3 < 5 by omega)] at h0 h1 h2 h3
    exact ⟨h0, h1, h2, fun hI1 => by rw [enters_ready_iff hw hI1] at h3; exact h3⟩

/-! ### The receive side of a cycle -/

/-- Settles O39: rx_en = 0 drops the offered byte, and no host write touches the write side. -/
theorem bytesDroppedWhileTransmitting : Obligations.BytesDroppedWhileTransmitting := by
  intro s hr hs
  obtain ⟨h, hw, he, -⟩ := step_eq_runCycle hr
  obtain ⟨hmem, hwr⟩ := runCycle_fifo_writeSide hw
  rw [afterIngress_fifo_of_transmitting hs] at hmem hwr
  exact ⟨_, he, hmem, hwr⟩

/-- Settles O50: the consumed byte's unit is the one phase 3 leaves, and phase 4 resets it or keeps it. -/
theorem deserializerCycle : Obligations.DeserializerCycle := by
  intro s
  refine ⟨fun hr hf => ?_, (afterDeserializer s .none).rx, fun hp => ?_, fun hp => ?_, quietCycle_ingressOnly s,
    fun hreset => ?_, fun hkeep => ?_⟩
  · exact ⟨_, step_of_no_command hr hf, runCycle_receiveSide_of_no_command (registerWrite_isHostWrite hf) hf⟩
  · have hpop := (pops_none s).mpr hp
    rw [quietCycle_fifo, afterDeserializer_rx, afterDeserializer_fifo_rd, if_pos hpop, if_pos hpop]
    exact ⟨rfl, rfl⟩
  · have hpop : ¬pops s .none = true := fun h => hp ((pops_none s).mp h)
    rw [quietCycle_fifo, afterDeserializer_rx, afterDeserializer_fifo_rd, if_neg hpop, if_neg hpop]
    exact ⟨rfl, rfl⟩
  · rw [quietCycle_rx, afterSequencer_none]
    exact seqStep_rx_of_resets hreset _
  · rw [quietCycle_rx, afterSequencer_none]
    exact seqStep_rx_of_not_resets hkeep _

/-! ### The step's command, the reset and the outputs -/

/-- Settles O4: the written byte is the one the step fetches. -/
theorem stepRunsTheDecodedCommand : Obligations.StepRunsTheDecodedCommand := by
  intro s i _ hr hw ha hd
  have hi : decodeByte s.input.busWdata = i := by simpa [decode] using hd
  have hf : fetchCommand s.input = some s.input.busWdata := by simp [fetchCommand, hw, ha]
  simp [step, hr, hf, hi]

/-- Settles O5: the reset is decided before any other input is read. -/
theorem resetInputLoadsResetState : Obligations.ResetInputLoadsResetState := by
  intro s hr
  exact ⟨⟨resetCycle s, by simp [step, hr], rfl, rfl, rfl, rfl, rfl⟩, by simp [busRdata, hr]⟩

theorem txValid_iff (s : State) : txValid s = true ↔ s.sqr.seq = .sending := decide_eq_true_iff

/-- The interrupt line is 1 exactly when an enabled STATUS bit is set (10_state.md R38). -/
theorem irq_iff (s : State) :
    irq s = true ↔ ∃ i < 5, s.regs.status.getLsbD i = true ∧ s.regs.irqEn.getLsbD i = true := by
  have hzero : s.regs.status &&& s.regs.irqEn = 0#5 ↔
      ∀ i < 5, ¬(s.regs.status.getLsbD i = true ∧ s.regs.irqEn.getLsbD i = true) := by
    constructor
    · intro h i _ hi
      have := congrArg (·.getLsbD i) h
      simp [hi] at this
    · intro h
      apply BitVec.eq_of_getLsbD_eq
      intro i hi
      simpa using h i hi
  rw [irq, decide_eq_true_iff, ne_eq, hzero]
  push Not
  rfl

/-- Settles O15, one output at a time. -/
theorem outputsOfTheState : Obligations.OutputsOfTheState := fun s =>
  ⟨rxEn_eq_false_iff s, txValid_iff s, rfl, irq_iff s, fun _ _ => ⟨rfl, rfl, rfl, rfl⟩⟩

end Sys2Proof.Machine

namespace Sys2Proof.Machine

open Sys2Proof

/-! ### While BUSY -/

/-- Settles O38: while BUSY every host write of a step is refused or writes elsewhere. -/
theorem txPacketFrozenWhileBusy : Obligations.TxPacketFrozenWhileBusy := by
  intro s hr hb
  obtain ⟨h, hw, he, -⟩ := step_eq_runCycle hr
  obtain ⟨htx, htimeout, hguard, -⟩ := runCycle_of_busy hw hb
  exact ⟨_, he, htx, htimeout, hguard⟩

/-! ### The register map by ranges of addresses -/

/-- The TX_PAY window (20_memory.md R61). -/
theorem regAt_txWindow {p : Params} {a : Addr} (hlo : 0x100 ≤ a.toNat) (hhi : a.toNat < 0x100 + p.payloadCap) :
    regAt p a = .txPay (a.toNat - 0x100) := by
  rw [regAt_of_le (by omega), if_pos ⟨hlo, hhi⟩]

/-- The RX_PAY window (20_memory.md R61); PAYLOAD_CAP keeps the two windows apart. -/
theorem regAt_rxWindow {p : Params} {a : Addr} (hlo : 0x200 ≤ a.toNat) (hhi : a.toNat < 0x200 + p.payloadCap) :
    regAt p a = .rxPay (a.toNat - 0x200) := by
  have := p.capLegal
  rw [regAt_of_le (by omega), if_neg (by omega), if_pos ⟨hlo, hhi⟩]

/-- The addresses from 0x01E on that no window covers (20_memory.md R61). -/
theorem regAt_reserved {p : Params} {a : Addr} (h : 0x01E ≤ a.toNat ∧ a.toNat ≤ 0x0FF ∨
    0x100 + p.payloadCap ≤ a.toNat ∧ a.toNat ≤ 0x1FF ∨ 0x200 + p.payloadCap ≤ a.toNat) :
    regAt p a = .reserved := by
  have := p.capLegal
  rw [regAt_of_le (by omega), if_neg (by omega), if_neg (by omega)]

/-- Below the windows the map is a table, so a fact about a range of addresses is a fact about each number of it. -/
theorem regAt_ofNat_toNat (p : Params) (a : Addr) : regAt p (BitVec.ofNat 10 a.toNat) = regAt p a := by
  rw [BitVec.ofNat_toNat, BitVec.setWidth_eq]

/-- The ranges of plain registers (20_memory.md R61). -/
theorem regAt_access_readWrite {p : Params} {a : Addr} (h : a.toNat = 0x002 ∨ 0x008 ≤ a.toNat ∧ a.toNat ≤ 0x00A) :
    (regAt p a).access = .readWrite := by
  rw [← regAt_ofNat_toNat]
  generalize a.toNat = n at h
  rcases h with rfl | ⟨hlo, hhi⟩
  · rfl
  · interval_cases n <;> rfl

/-- The ranges of locked registers (20_memory.md R61, R64). -/
theorem regAt_access_readWriteLocked {p : Params} {a : Addr} (h : 0x00C ≤ a.toNat ∧ a.toNat ≤ 0x016 ∨
    0x100 ≤ a.toNat ∧ a.toNat < 0x100 + p.payloadCap) : (regAt p a).access = .readWriteLocked := by
  rcases h with h | ⟨hlo, hhi⟩
  · rw [← regAt_ofNat_toNat]
    generalize a.toNat = n at h
    obtain ⟨hlo, hhi⟩ := h
    interval_cases n <;> rfl
  · rw [regAt_txWindow hlo hhi]
    rfl

/-- The ranges of read-only and reserved addresses (20_memory.md R61, R63). -/
theorem regAt_access_ignored {p : Params} {a : Addr} (h : 0x003 ≤ a.toNat ∧ a.toNat ≤ 0x007 ∨ a.toNat = 0x00B ∨
    0x017 ≤ a.toNat ∧ a.toNat ≤ 0x0FF ∨ 0x100 + p.payloadCap ≤ a.toNat) :
    (regAt p a).access = .readOnly ∨ (regAt p a).access = .reserved := by
  by_cases hlow : a.toNat < 0x01E
  · have hl : 0x003 ≤ a.toNat ∧ a.toNat ≤ 0x007 ∨ a.toNat = 0x00B ∨ 0x017 ≤ a.toNat ∧ a.toNat ≤ 0x01D := by omega
    rw [← regAt_ofNat_toNat]
    generalize a.toNat = n at hl
    rcases hl with ⟨hlo, hhi⟩ | rfl | ⟨hlo, hhi⟩
    · left; interval_cases n <;> rfl
    · exact .inr rfl
    · left; interval_cases n <;> rfl
  · by_cases hrx : 0x200 ≤ a.toNat ∧ a.toNat < 0x200 + p.payloadCap
    · left; rw [regAt_rxWindow hrx.1 hrx.2]; rfl
    · right; rw [regAt_reserved (by omega)]; rfl

theorem classifyWrite_of_ignored {s : State} {r : Reg} (h : r.access = .readOnly ∨ r.access = .reserved) (v : Byte) :
    classifyWrite s r v = .none := by
  rcases h with h | h <;> simp [classifyWrite, h]

/-- Settles O10: such an address classifies the write as no write. -/
theorem readOnlyAndReservedWritesIgnored : Obligations.ReadOnlyAndReservedWritesIgnored := by
  intro s hr hw ha
  rw [step_of_register_write hr hw (by omega), classifyWrite_of_ignored (regAt_access_ignored ha)]
  rfl

/-! ### A register write, read back -/

/-- The address of a register in the map (20_memory.md R61); for `reserved`, which has many, one of them. -/
def Reg.addr : Reg → Nat
  | .cmd => 0x000
  | .status => 0x001
  | .irqEn => 0x002
  | .err => 0x003
  | .seq => 0x004
  | .rxState => 0x005
  | .rxPos => 0x006
  | .fifoCount => 0x007
  | .arg0 => 0x008
  | .arg1 => 0x009
  | .arg2 => 0x00A
  | .timeout k => 0x00C + k
  | .guard k => 0x010 + k
  | .txId => 0x014
  | .txLen => 0x015
  | .txOp => 0x016
  | .txCs => 0x017
  | .rxId => 0x018
  | .rxLen => 0x019
  | .rxOp => 0x01A
  | .rxCs => 0x01B
  | .txIdxLo => 0x01C
  | .txIdxHi => 0x01D
  | .txPay i => 0x100 + i
  | .rxPay i => 0x200 + i
  | .reserved => 0x00B

/-- A register of the map stands at one address. -/
theorem Reg.addr_regAt {p : Params} {a : Addr} (h : regAt p a ≠ .reserved) : (regAt p a).addr = a.toNat := by
  by_cases hl : 0x1E ≤ a.toNat
  · rw [regAt_of_le hl] at h ⊢
    split at h
    case isTrue hin => rw [if_pos hin, Reg.addr]; omega
    case isFalse hout =>
      rw [if_neg hout]
      split at h
      case isTrue hin => rw [if_pos hin, Reg.addr]; omega
      case isFalse => exact absurd rfl h
  · rw [← regAt_ofNat_toNat] at h ⊢
    generalize a.toNat = n at h hl
    have hn : n < 0x1E := by omega
    clear h hl
    interval_cases n <;> rfl

/-- Two addresses that hold registers of the map hold different registers. -/
theorem regAt_ne {p : Params} {a b : Addr} (ha : regAt p a ≠ .reserved) (hb : regAt p b ≠ .reserved) (hab : a ≠ b) :
    regAt p a ≠ regAt p b := by
  intro e
  apply hab
  apply BitVec.eq_of_toNat_eq
  rw [← Reg.addr_regAt ha, ← Reg.addr_regAt hb, e]

theorem regAt_eq_irqEn_iff {p : Params} {a : Addr} : regAt p a = .irqEn ↔ a.toNat = 0x002 := by
  constructor
  · intro h
    rw [← Reg.addr_regAt (show regAt p a ≠ .reserved by simp [h]), h]
    rfl
  · intro h
    rw [← regAt_ofNat_toNat, h]
    rfl

/-- A register that a host write stores a byte in (20_memory.md R63). -/
def Reg.Storable (r : Reg) : Prop := r.access = .readWrite ∨ r.access = .readWriteLocked

theorem Reg.Storable.ne_reserved {r : Reg} (h : r.Storable) : r ≠ .reserved := by
  rintro rfl
  simp [Reg.Storable, Reg.access] at h

/-- The five bits of IRQ_EN as the host reads them (20_memory.md R67). -/
theorem zeroExtend_truncate_five (v : Byte) : (v.truncate 5).zeroExtend 8 = v &&& 0x1F#8 := by
  revert v; decide

theorem Reg.value_store_same {r : Reg} (h : r.Storable) (v : Byte) (t : State) :
    r.value (r.store v t) = if r = .irqEn then v &&& 0x1F#8 else v := by
  cases r with
  | irqEn => exact zeroExtend_truncate_five v
  | timeout k | guard k => simp [Reg.value, Reg.store, byteOfWord_setByteOfWord]
  | txPay i => simp [Reg.value, Reg.store]
  | arg0 | arg1 | arg2 | txId | txLen | txOp => rfl
  | _ => simp [Reg.Storable, Reg.access] at h

/-- A store changes the reading of its own register alone. -/
theorem Reg.value_store_of_ne {r r' : Reg} (h : r' ≠ r) (v : Byte) (t : State) :
    r'.value (r.store v t) = r'.value t := by
  cases r with
  | timeout k =>
    cases r' with
    | timeout j => simpa [Reg.value, Reg.store, byteOfWord_setByteOfWord] using fun e => absurd (congrArg _ e) h
    | _ => rfl
  | guard k =>
    cases r' with
    | guard j => simpa [Reg.value, Reg.store, byteOfWord_setByteOfWord] using fun e => absurd (congrArg _ e) h
    | _ => rfl
  | txPay i =>
    cases r' with
    | txPay j => exact Memory.read_write_other _ v fun e => h (congrArg _ e)
    | _ => rfl
  | irqEn | arg0 | arg1 | arg2 | txId | txLen | txOp => cases r' <;> first | rfl | exact absurd rfl h
  | _ => rfl

/-- A storable register reads the TX packet and the registers only the host writes. -/
theorem Reg.Storable.value_congr {r : Reg} (hr : r.Storable) {s t : State} (htx : t.tx = s.tx)
    (h : hostRegistersKept s t) : r.value t = r.value s := by
  obtain ⟨harg0, harg1, harg2, htimeout, hguard, hirqEn, -⟩ := h
  cases r <;> simp_all [Reg.Storable, Reg.access, Reg.value]

/-- Phases 2 to 4 and phase 6 leave the reading of a storable register to the store of phase 5 (10_state.md R46). -/
theorem Reg.Storable.value_runCycle_store {r' : Reg} (hr' : r'.Storable) (s : State) (r : Reg) (v : Byte) :
    r'.value (runCycle s (.reg 0#5 fun _ t => r.store v t)) = r'.value (r.store v s) := by
  apply hr'.value_congr <;> cases r <;> simp [runCycle, afterHost, Reg.store, hostRegistersKept]

/-- What the cycle of a stored write shares with the cycle with no host write. -/
theorem runCycle_store_frame (s : State) (r : Reg) (v : Byte) :
    let t := runCycle s (.reg 0#5 fun _ t => r.store v t)
    t.tx.cs = s.tx.cs ∧ t.rx = (quietCycle s).rx ∧ t.fifo = (quietCycle s).fifo ∧ t.sqr = (quietCycle s).sqr ∧
      t.regs.status = (quietCycle s).regs.status ∧ t.regs.err = s.regs.err := by
  have hv : afterSequencer s (.reg 0#5 fun _ t => r.store v t) = afterSequencer s .none := rfl
  refine ⟨?_, ?_, ?_, ?_, rfl, by simp [runCycle_err, nextErr, HostWrite.w1cMask]⟩ <;>
    simp [runCycle, afterHost, Reg.store_frame, hv]

theorem classifyWrite_of_accepted {s : State} {r : Reg}
    (h : r.access = .readWrite ∨ r.access = .readWriteLocked ∧ s.busy = false) (v : Byte) :
    classifyWrite s r v = .reg 0#5 fun _ t => r.store v t := by
  rcases h with h | ⟨h, hb⟩
  · simp [classifyWrite, h]
  · simp [classifyWrite, h, hb]

/-- Settles O11: the write stores its byte in the one register of its address, over the cycle with no host write. -/
theorem registerWriteReadsBack : Obligations.RegisterWriteReadsBack := by
  intro s hr hw plain hplain ha hbusy
  have storable {a : Addr} (h : plain a.toNat) : (regAt s.params a).Storable := by
    rcases (hplain _).mp h with h | h | h | h
    · exact .inl (regAt_access_readWrite (.inl h))
    · exact .inl (regAt_access_readWrite (.inr h))
    · exact .inr (regAt_access_readWriteLocked (.inl h))
    · exact .inr (regAt_access_readWriteLocked (.inr h))
  have haccepted : (regAt s.params s.input.busAddr).access = .readWrite ∨
      (regAt s.params s.input.busAddr).access = .readWriteLocked ∧ s.busy = false := by
    cases hb : s.busy with
    | false => exact (storable ha).imp_right fun h => ⟨h, rfl⟩
    | true =>
      have := hbusy hb
      have := (hplain _).mp ha
      exact .inl (regAt_access_readWrite (by omega))
  have haddr : s.input.busAddr.toNat ≠ 0 := by have := (hplain _).mp ha; omega
  have hclock := runCycle_clock (.store _ s.input.busWdata (fetchCommand_of_addr haddr) haccepted rfl rfl)
  obtain ⟨hcs, hrx, hfifo, hsqr, hstatus, herr⟩ :=
    runCycle_store_frame s (regAt s.params s.input.busAddr) s.input.busWdata
  refine ⟨_, (step_of_register_write hr hw haddr).trans (by rw [classifyWrite_of_accepted haccepted]), ?same,
    fun a hp hne => ?other, hcs, hrx, hfifo, hsqr, hstatus, herr, hclock⟩
  case same =>
    rw [regRead, hclock.1, (storable ha).value_runCycle_store, Reg.value_store_same (storable ha)]
    simp only [regAt_eq_irqEn_iff]
  case other =>
    have hreg := regAt_ne (storable hp).ne_reserved (storable ha).ne_reserved hne
    rw [regRead, hclock.1, (storable hp).value_runCycle_store, Reg.value_store_of_ne hreg, regRead]

/-! ### A read changes nothing -/

/-- The state with the read strobe of the coming cycle driven to `re`, where a drive is listed. -/
def State.withReadStrobe (re : Bool) (s : State) : State :=
  { s with inputs := s.inputs.modifyHead fun i => { i with busRe := re } }

/-- Every pin but the read strobe is as before. -/
theorem State.withReadStrobe_input (re : Bool) (s : State) :
    ∃ re', (s.withReadStrobe re).input = { s.input with busRe := re' } := by
  cases hs : s.inputs with
  | nil => exact ⟨s.input.busRe, by simp [State.withReadStrobe, State.input, hs]⟩
  | cons i rest => exact ⟨re, by simp [State.withReadStrobe, State.input, hs]⟩

/-- The clock edge uses up the drive, and with it the strobe. -/
theorem State.withReadStrobe_tick (re : Bool) (s : State) : (s.withReadStrobe re).tick = s.tick := by
  simp [State.withReadStrobe, State.tick]

theorem afterIngress_withReadStrobe (re : Bool) (s : State) :
    afterIngress (s.withReadStrobe re) = (afterIngress s).withReadStrobe re := by
  obtain ⟨re', hi⟩ := s.withReadStrobe_input re
  unfold afterIngress
  rw [hi, apply_ite (State.withReadStrobe re)]
  rfl

theorem afterDeserializer_withReadStrobe (re : Bool) (s : State) (h : HostWrite) :
    afterDeserializer (s.withReadStrobe re) h = (afterDeserializer s h).withReadStrobe re := by
  unfold afterDeserializer
  rw [afterIngress_withReadStrobe, apply_ite (State.withReadStrobe re)]
  rfl

theorem seqStep_withReadStrobe (re : Bool) (s t : State) (txReady : Bool) :
    seqStep (s.withReadStrobe re) (t.withReadStrobe re) txReady = (seqStep s t txReady).withReadStrobe re := by
  have hq : (s.withReadStrobe re).sqr.seq = s.sqr.seq := rfl
  cases hs : s.sqr.seq <;> simp only [seqStep, hq, hs]
  case sending => simp only [sendStep, apply_ite (State.withReadStrobe re)]; rfl
  case guard => simp only [guardStep, apply_ite (State.withReadStrobe re)]; rfl
  case await => simp only [awaitStep, apply_ite (State.withReadStrobe re)]; rfl

theorem afterSequencer_withReadStrobe (re : Bool) (s : State) (h : HostWrite) :
    afterSequencer (s.withReadStrobe re) h = (afterSequencer s h).withReadStrobe re := by
  obtain ⟨re', hi⟩ := s.withReadStrobe_input re
  unfold afterSequencer
  rw [hi, afterDeserializer_withReadStrobe, seqStep_withReadStrobe, apply_ite (State.withReadStrobe re)]
  rfl

/-- A phase 5 effect that does not see the read strobe. -/
def StrobeBlind (effect : State → State → State) : Prop :=
  ∀ (re : Bool) (s t : State),
    effect (s.withReadStrobe re) (t.withReadStrobe re) = (effect s t).withReadStrobe re

/-- A host write whose effect, if it has one, does not see the read strobe. -/
def HostWrite.StrobeBlind : HostWrite → Prop
  | .reg _ effect | .cmd _ effect => Machine.StrobeBlind effect
  | .none | .refused _ => True

theorem afterHost_withReadStrobe {h : HostWrite} (hh : h.StrobeBlind) (re : Bool) (s : State) :
    afterHost (s.withReadStrobe re) h = (afterHost s h).withReadStrobe re := by
  cases h with
  | reg w effect | cmd c effect => simp only [afterHost, afterSequencer_withReadStrobe]; exact hh re s _
  | none | refused e => exact afterSequencer_withReadStrobe re s _

theorem runCycle_withReadStrobe {h : HostWrite} (hh : h.StrobeBlind) (re : Bool) (s : State) :
    runCycle (s.withReadStrobe re) h = runCycle s h := by
  have hev : cycleEvents (s.withReadStrobe re) h = cycleEvents s h := by
    simp only [cycleEvents, afterDeserializer_withReadStrobe, afterSequencer_withReadStrobe]
    rfl
  rw [runCycle, hev, afterHost_withReadStrobe hh]
  exact State.withReadStrobe_tick re (updateStatus s h (cycleEvents s h) (afterHost s h))

theorem Reg.store_strobeBlind (r : Reg) (v : Byte) : StrobeBlind fun _ t => r.store v t := by
  intro re s t
  cases r <;> rfl

theorem registerWrite_strobeBlind (s : State) : (registerWrite s).StrobeBlind := by
  unfold registerWrite
  split
  · rcases classifyWrite_cases s (regAt s.params s.input.busAddr) s.input.busWdata with
      ⟨-, h⟩ | ⟨-, -, h⟩ | ⟨-, h⟩ | ⟨-, h⟩ <;> rw [h]
    · trivial
    · trivial
    · exact fun _ _ _ => rfl
    · exact Reg.store_strobeBlind _ _
  · trivial

theorem commandCycle_withReadStrobe {effect : State → State → State} (he : StrobeBlind effect) (re : Bool) (s : State)
    (c : Instr) (checks : List (Option ErrCode)) :
    commandCycle (s.withReadStrobe re) c checks effect = commandCycle s c checks effect := by
  refine runCycle_withReadStrobe ?_ re s
  cases firstFailure checks with
  | none => exact he
  | some e => trivial

theorem abortEffect_strobeBlind : StrobeBlind abortEffect := by
  intro re s t
  unfold abortEffect
  rw [apply_ite (State.withReadStrobe re)]
  rfl

/-- No command's cycle depends on the read strobe: its checks read registers alone, and so does its effect. -/
theorem exec_withReadStrobe (re : Bool) (s : State) (i : Instr) : exec i (s.withReadStrobe re) = exec i s := by
  have run {c : Instr} {checks : List (Option ErrCode)} {effect : State → State → State} (he : StrobeBlind effect) :
      Host.Outcome.next (φ := Fault) (ρ := Refusal) (commandCycle (s.withReadStrobe re) c checks effect) =
        .next (commandCycle s c checks effect) :=
    congrArg _ (commandCycle_withReadStrobe he re s c checks)
  cases i with
  | abort => exact run abortEffect_strobeBlind
  | _ => exact run fun _ _ _ => rfl

/-- No step depends on the read strobe (20_memory.md R62). -/
theorem step_withReadStrobe (re : Bool) (s : State) : step (s.withReadStrobe re) = step s := by
  obtain ⟨re', hi⟩ := s.withReadStrobe_input re
  have hreset : resetCycle (s.withReadStrobe re) = resetCycle s := by
    simp [resetCycle, State.withReadStrobe]
  have hwrite : registerWrite (s.withReadStrobe re) = registerWrite s := by
    unfold registerWrite
    rw [hi]
    rfl
  have hfetch : fetchCommand (s.withReadStrobe re).input = fetchCommand s.input := by rw [hi]; rfl
  have hrst : (s.withReadStrobe re).input.rst = s.input.rst := by rw [hi]
  unfold step
  rw [hrst, hreset, hfetch, hwrite, runCycle_withReadStrobe (registerWrite_strobeBlind s)]
  cases fetchCommand s.input with
  | none => rfl
  | some b => simp only [exec_withReadStrobe]

/-! ### Reads by the map -/

/-- A read of the FIFO's fill level is exact: Count fits in a byte for every legal depth (20_memory.md R70). -/
theorem fifoCount_lt (s : State) : s.fifoCount < 256 := by
  have hcount : s.fifoCount ≤ 2 * s.params.fifoDepth - 1 := Fifo.count_le (Params.fifoDepth_pos s.params) s.fifo
  have hdepth := Params.fifoDepth_le s.params
  omega

theorem regRead_of_regAt {s : State} {a : Addr} {r : Reg} (h : regAt s.params a = r) : regRead s a = r.value s := by
  rw [regRead, h]

/-- MODE and SEQ as the host reads them (20_memory.md R69). -/
theorem Reg.value_seq_toNat (s : State) :
    (Reg.seq.value s).toNat = (if s.sqr.mode then 8 else 0) + s.sqr.seq.bits.toNat := by
  rw [Reg.value]
  cases s.sqr.mode <;> cases s.sqr.seq <;> rfl

theorem Reg.value_fifoCount_toNat (s : State) : (Reg.fifoCount.value s).toNat = s.fifoCount :=
  Nat.mod_eq_of_lt (fifoCount_lt s)

/-- The low byte of TX_IDX (20_memory.md R76). -/
theorem Reg.value_txIdxLo (s : State) : Reg.txIdxLo.value s = s.sqr.txIdx.extractLsb' 0 8 := by
  apply BitVec.eq_of_toNat_eq
  simp [Reg.value]

/-- Bit 8 of TX_IDX, alone in its register (20_memory.md R76). -/
theorem Reg.value_txIdxHi_toNat (s : State) :
    (Reg.txIdxHi.value s).toNat = if s.sqr.txIdx.getLsbD 8 then 1 else 0 := by
  have hlt := s.sqr.txIdx.isLt
  have hbit : s.sqr.txIdx.getLsbD 8 = decide (s.sqr.txIdx.toNat / 256 % 2 = 1) := by
    rw [BitVec.getLsbD, Nat.testBit_eq_decide_div_mod_eq]
  rw [hbit]
  simp only [Reg.value, BitVec.toNat_ofNat, decide_eq_true_eq]
  split <;> omega

/-- The four bytes of TIMEOUT, byte 0 lowest (20_memory.md R76). -/
theorem regRead_timeout (s : State) {k : Nat} (hk : k < 4) :
    regRead s (BitVec.ofNat 10 (0x00C + k)) = s.regs.timeout.extractLsb' (8 * k) 8 := by
  have hreg : regAt s.params (BitVec.ofNat 10 (0x00C + k)) = .timeout ⟨k, hk⟩ := by interval_cases k <;> rfl
  exact (regRead_of_regAt hreg).trans (byteOfWord_eq_extract _ ⟨k, hk⟩)

/-- The four bytes of GUARD, byte 0 lowest (20_memory.md R76). -/
theorem regRead_guard (s : State) {k : Nat} (hk : k < 4) :
    regRead s (BitVec.ofNat 10 (0x010 + k)) = s.regs.guard.extractLsb' (8 * k) 8 := by
  have hreg : regAt s.params (BitVec.ofNat 10 (0x010 + k)) = .guard ⟨k, hk⟩ := by interval_cases k <;> rfl
  exact (regRead_of_regAt hreg).trans (byteOfWord_eq_extract _ ⟨k, hk⟩)

theorem regRead_txPay (s : State) {i : Nat} (hi : i < s.params.payloadCap) :
    regRead s (BitVec.ofNat 10 (0x100 + i)) = s.tx.pay.read i := by
  have hcap := s.params.capLegal
  have ha : (BitVec.ofNat 10 (0x100 + i)).toNat = 0x100 + i := Nat.mod_eq_of_lt (by omega)
  have hreg := regAt_txWindow (p := s.params) (a := BitVec.ofNat 10 (0x100 + i)) (by omega) (by omega)
  rw [ha, Nat.add_sub_cancel_left] at hreg
  exact regRead_of_regAt hreg

theorem regRead_rxPay (s : State) {i : Nat} (hi : i < s.params.payloadCap) :
    regRead s (BitVec.ofNat 10 (0x200 + i)) = s.rx.pay.read i := by
  have hcap := s.params.capLegal
  have ha : (BitVec.ofNat 10 (0x200 + i)).toNat = 0x200 + i := Nat.mod_eq_of_lt (by omega)
  have hreg := regAt_rxWindow (p := s.params) (a := BitVec.ofNat 10 (0x200 + i)) (by omega) (by omega)
  rw [ha, Nat.add_sub_cancel_left] at hreg
  exact regRead_of_regAt hreg

/-- Settles O9: the map by its ranges, and a step that does not see the read strobe. -/
theorem registerReadsFollowTheMap : Obligations.RegisterReadsFollowTheMap := by
  refine ⟨fun s => ?map, fun s => ?rdata, fun s i rest re hs t ht => ?strobe⟩
  case map =>
    exact ⟨rfl, rfl, rfl, rfl, Reg.value_seq_toNat s, rfl, rfl, Reg.value_fifoCount_toNat s, rfl, rfl, rfl, rfl,
      fun _ => regRead_timeout s, fun _ => regRead_guard s, rfl, rfl, rfl, rfl, rfl, rfl, rfl, rfl,
      Reg.value_txIdxLo s, Reg.value_txIdxHi_toNat s,
      fun _ hlo hhi => regRead_of_regAt (regAt_reserved (.inl ⟨hlo, hhi⟩)),
      fun _ => regRead_txPay s,
      fun _ hlo hhi => regRead_of_regAt (regAt_reserved (.inr (.inl ⟨hlo, hhi⟩))),
      fun _ => regRead_rxPay s,
      fun _ hlo => regRead_of_regAt (regAt_reserved (.inr (.inr hlo)))⟩
  case rdata => simp [busRdata]
  case strobe =>
    have hdrive : { s with inputs := { i with busRe := re } :: rest } = s.withReadStrobe re := by
      simp [State.withReadStrobe, hs]
    rw [hdrive, step_withReadStrobe, ht]

end Sys2Proof.Machine

namespace Sys2Proof

open Sys2Proof.Machine

/-! ### The decoder and the encoder -/

theorem Instr.wf_reserved_iff {code : Byte} : (Instr.reserved code).wf = true ↔ 0x0E ≤ code.toNat :=
  decide_eq_true_iff

/-- The last row of the code map is the whole range from 0x0E on (30_encoding.md R114). -/
theorem decodeByte_of_reserved {b : Byte} (h : 0x0E ≤ b.toNat) : decodeByte b = .reserved b := by
  unfold decodeByte
  split
  case h_15 => rfl
  all_goals omega

/-- The decoder answers `reserved` only where none of the 14 codes stands. -/
theorem decodeByte_wf (b : Byte) : (decodeByte b).wf = true := by
  by_cases h : 0x0E ≤ b.toNat
  · rw [decodeByte_of_reserved h]
    exact Instr.wf_reserved_iff.mpr h
  · rw [decodeByte]
    generalize b.toNat = n at h
    interval_cases n <;> rfl

/-- A well-formed command is read back from its code: the other direction of `decodeByte_code`. -/
theorem decodeByte_code_of_wf {i : Instr} (h : i.wf = true) : decodeByte i.code = i := by
  cases i with
  | reserved code => exact decodeByte_of_reserved (Instr.wf_reserved_iff.mp h)
  | _ => rfl

theorem decode_eq_ok_iff {bytes rest : List Byte} {i : Instr} :
    decode bytes = .ok (i, rest) ↔ ∃ b, bytes = b :: rest ∧ decodeByte b = i := by
  cases bytes with
  | nil => simp [decode]
  | cons b tail =>
    simp only [decode, Except.ok.injEq, Prod.mk.injEq, List.cons.injEq]
    constructor
    · rintro ⟨rfl, rfl⟩
      exact ⟨b, ⟨rfl, rfl⟩, rfl⟩
    · rintro ⟨-, ⟨rfl, rfl⟩, rfl⟩
      exact ⟨rfl, rfl⟩

/-- Settles O2: the one byte of the encoding is the command's code. -/
theorem decodeOfEncode : Obligations.DecodeOfEncode := fun i _ h =>
  decode_eq_ok_iff.mpr ⟨i.code, rfl, decodeByte_code_of_wf h⟩

/-- Settles O3: the decoder looks at the first byte alone, and that byte is the code of what it answers. -/
theorem encodeOfDecode : Obligations.EncodeOfDecode := by
  refine ⟨fun bytes i rest h => ?roundTrip, fun bytes => ?domain⟩
  case roundTrip =>
    obtain ⟨b, rfl, rfl⟩ := decode_eq_ok_iff.mp h
    refine ⟨decodeByte_wf b, rfl, ?_⟩
    rw [encode, decodeByte_code, List.singleton_append]
  case domain =>
    simp only [decode_eq_ok_iff]
    cases bytes with
    | nil => simp
    | cons b rest => exact iff_of_true ⟨decodeByte b, rest, b, rfl, rfl⟩ (List.cons_ne_nil b rest)

/-- Settles O1: the code map, row by row, and the ends of its reserved range. -/
theorem commandBytesDecode : Obligations.CommandBytesDecode := by
  have row {i : Instr} (h : Laws.OneByte.Statement i) (hwf : i.wf = true) :
      decodeTableWord 8 i.code.toNat = some i := h.2 hwf
  open Laws.OneByte in
  exact ⟨row nop rfl, row rxReset rfl, row fifoFlush rfl, row setChecksum rfl, row buildRead rfl, row buildWrite8 rfl,
    row buildWrite16 rfl, row send rfl, row transact rfl, row receive rfl, row abort rfl, row readReg rfl,
    row writeReg8 rfl, row writeReg16 rfl, row (reserved 0x0E) rfl, row (reserved 0xFF) rfl⟩

end Sys2Proof

namespace Sys2Proof.Machine

open Sys2Proof

/-! ### Refused commands -/

/-- Settles O31: ILLEGAL stands first in a reserved code's checks, whatever the state. -/
theorem reservedCodesRefusedAsIllegal : Obligations.ReservedCodesRefusedAsIllegal := by
  intro code s h
  rw [decodeByte_of_reserved h]
  exact congrArg Host.Outcome.next (commandCycle_refused (firstFailure_cons_some .illegal []))

theorem countCheck_of_overflow {s : State} (h : s.params.payloadCap < s.regs.arg1.toNat) :
    countCheck s = some .payloadOverflow := if_pos h

/-- The length bound is above 2, so the two failures of the TX_LEN check exclude each other (30_encoding.md R113). -/
theorem txLenCheck_of_overflow {s : State} (h : s.params.payloadCap + 2 < s.tx.len.toNat) :
    txLenCheck s = some .payloadOverflow := by
  rw [txLenCheck, if_neg (by omega), if_pos h]

theorem txLenCheck_of_short {s : State} (h : s.tx.len.toNat < 2) : txLenCheck s = some .badLength := if_pos h

/-- While not BUSY the operand check of a command that needs idle decides (30_encoding.md R112). -/
theorem next_commandCycle_refused {s : State} (hb : s.busy = false) {check : Option ErrCode} {e : ErrCode}
    (hc : check = some e) {c : Instr} {effect : State → State → State} :
    Host.Outcome.next (φ := Fault) (ρ := Refusal) (commandCycle s c [busyCheck s, check] effect) =
      .next (withRefusal e (quietCycle s)) := by
  rw [commandCycle_refused]
  rw [busyCheck_eq_none.mpr hb, hc, firstFailure_cons_none, firstFailure_cons_some]

theorem exec_refused_of_countCheck {s : State} (hb : s.busy = false) {e : ErrCode} (hc : countCheck s = some e) :
    ∀ i ∈ [Instr.buildRead, .readReg], exec i s = .next (withRefusal e (quietCycle s)) := by
  simp only [List.forall_mem_cons]
  exact ⟨next_commandCycle_refused hb hc, next_commandCycle_refused hb hc, List.forall_mem_nil _⟩

theorem exec_refused_of_txLenCheck {s : State} (hb : s.busy = false) {e : ErrCode} (hc : txLenCheck s = some e) :
    ∀ i ∈ [Instr.setChecksum, .send, .transact], exec i s = .next (withRefusal e (quietCycle s)) := by
  simp only [List.forall_mem_cons]
  exact ⟨next_commandCycle_refused hb hc, next_commandCycle_refused hb hc, next_commandCycle_refused hb hc,
    List.forall_mem_nil _⟩

/-- Settles O32: past the BUSY check, each range of the operand fails its command's check with its own code. -/
theorem operandRefusals : Obligations.OperandRefusals := fun _ hb =>
  ⟨fun h => exec_refused_of_countCheck hb (countCheck_of_overflow h),
    fun h => exec_refused_of_txLenCheck hb (txLenCheck_of_overflow h),
    fun h => exec_refused_of_txLenCheck hb (txLenCheck_of_short h)⟩

/-! ### Host programs of register writes -/

/-- A 32-bit register is its four bytes (20_memory.md R76). -/
theorem eq_of_byteOfWord_eq {w w' : Word32} (h : ∀ k, byteOfWord w k = byteOfWord w' k) : w = w' := by
  apply BitVec.eq_of_getLsbD_eq
  intro i hi
  have hbyte := congrArg (BitVec.getLsbD · (i % 8)) (h ⟨i / 8, by omega⟩)
  simpa [byteOfWord_eq_extract, Nat.mod_lt, Nat.div_add_mod] using hbyte

/-- Writing all four bytes of a word leaves nothing of the register's old value (30_encoding.md R117). -/
theorem setByteOfWord_all (w v : Word32) :
    setByteOfWord (setByteOfWord (setByteOfWord (setByteOfWord w 0 (byteOfWord v 0)) 1 (byteOfWord v 1))
      2 (byteOfWord v 2)) 3 (byteOfWord v 3) = v := by
  apply eq_of_byteOfWord_eq
  intro k
  simp only [byteOfWord_setByteOfWord]
  fin_cases k <;> simp

/-- The state with everything blanked that a cycle changes on its own while not BUSY: what is left changes by the
host's writes alone. -/
def State.hostPart (s : State) : State :=
  { s with inputs := [], cycle := 0, rx := {}, fifo := {}, regs := { s.regs with status := 0, err := .none } }

theorem fields_of_hostPart_eq {s u : State} (h : s.hostPart = u) :
    s.params = u.params ∧ s.tx = u.tx ∧ s.sqr = u.sqr ∧ s.regs.timeout = u.regs.timeout ∧
      s.regs.guard = u.regs.guard := by
  subst h
  exact ⟨rfl, rfl, rfl, rfl, rfl⟩

/-- The write of a byte at an address, as phase 5 stores it (20_memory.md R63). -/
def State.storeAt (t : State) (w : Addr × Byte) : State := (regAt t.params w.1).store w.2 t

/-- While not BUSY the cycle of a stored write is, on the host's part of the state, the store alone. -/
theorem hostPart_runCycle_store {s : State} (hb : s.busy = false) (r : Reg) (v : Byte) :
    (runCycle s (.reg 0#5 fun _ t => r.store v t)).hostPart = r.store v s.hostPart := by
  have hsqr (h : HostWrite) : (afterSequencer s h).sqr = s.sqr := by simp [afterSequencer_of_not_busy hb]
  cases r <;> simp [State.hostPart, runCycle, afterHost, Reg.store, hsqr, updateStatus, State.tick]

/-- CMD holds nothing, so a register that holds a byte is not at its address (20_memory.md R61). -/
theorem toNat_ne_zero_of_storable {p : Params} {a : Addr} (h : (regAt p a).Storable) : a.toNat ≠ 0 := by
  intro ha
  rw [← regAt_ofNat_toNat, ha] at h
  simp [regAt, Reg.Storable, Reg.access] at h

/-- One line `wr <reg>, <imm8>` while not BUSY (30_encoding.md R116). -/
theorem step_wr_line {s : State} {phy : CycleInput} {w : Addr × Byte} {rest : List CycleInput}
    (hin : s.inputs = HostLine.drive phy (.wr w.1 w.2) :: rest) (hb : s.busy = false)
    (hr : (regAt s.params w.1).Storable) :
    ∃ t, step s = .next t ∧ t.hostPart = s.hostPart.storeAt w ∧ t.inputs = rest := by
  have hinput : s.input = HostLine.drive phy (.wr w.1 w.2) := by rw [State.input, hin]
  have hstep : step s = .next (runCycle s (classifyWrite s (regAt s.params w.1) w.2)) := by
    rw [step_of_register_write] <;> simp [hinput, HostLine.drive, toNat_ne_zero_of_storable hr]
  rw [classifyWrite_of_accepted (hr.imp_right fun h => ⟨h, hb⟩)] at hstep
  refine ⟨_, hstep, hostPart_runCycle_store hb _ w.2, ?_⟩
  simp [runCycle, afterHost, Reg.store_frame, hin]

/-- A program of `wr` lines while not BUSY stores its bytes in turn, whatever the PHY does. -/
theorem stateAfter_wr_lines {phys rest : List CycleInput} {writes : List (Addr × Byte)} {s : State}
    (hl : phys.length = writes.length)
    (hin : s.inputs = List.zipWith HostLine.drive phys (writes.map fun w => .wr w.1 w.2) ++ rest)
    (hb : s.busy = false) (hr : ∀ w ∈ writes, (regAt s.params w.1).Storable) :
    (stateAfter writes.length s).hostPart = writes.foldl State.storeAt s.hostPart ∧
      (stateAfter writes.length s).inputs = rest := by
  induction writes generalizing phys s with
  | nil => simpa [stateAfter] using hin
  | cons w writes ih =>
    cases phys with
    | nil => cases hl
    | cons phy phys =>
      obtain ⟨hrw, hr⟩ := List.forall_mem_cons.mp hr
      obtain ⟨t, hst, hpart, hrest⟩ := step_wr_line hin hb hrw
      obtain ⟨hparams, -, -, -, -, hsqr, -⟩ := Reg.store_frame (regAt s.params w.1) w.2 s.hostPart
      obtain ⟨htparams, -, htsqr, -⟩ := fields_of_hostPart_eq hpart
      have htp : t.params = s.params := htparams.trans hparams
      have hts : t.sqr = s.sqr := htsqr.trans hsqr
      have htb : t.busy = false := by rwa [State.busy, hts]
      rw [List.length_cons, stateAfter_of_step hst, List.foldl_cons, ← hpart]
      exact ih (Nat.succ.inj hl) hrest htb (by rwa [htp])

/-- The four bytes of a word at consecutive addresses, lowest first (20_memory.md R76). -/
def wordWrites (a : Addr) (v : Word32) : List (Addr × Byte) :=
  [(a, byteOfWord v 0), (a + 1, byteOfWord v 1), (a + 2, byteOfWord v 2), (a + 3, byteOfWord v 3)]

theorem storeAt_timeout (t : State) (v : Word32) :
    (wordWrites 0x00C v).foldl State.storeAt t = { t with regs := { t.regs with timeout := v } } := by
  conv_rhs => rw [← setByteOfWord_all t.regs.timeout v]
  rfl

theorem storeAt_guard (t : State) (v : Word32) :
    (wordWrites 0x010 v).foldl State.storeAt t = { t with regs := { t.regs with guard := v } } := by
  conv_rhs => rw [← setByteOfWord_all t.regs.guard v]
  rfl

/-- The bytes of TIMEOUT and of GUARD stand at 0x00C to 0x013 (20_memory.md R61). -/
theorem wordWrites_storable (p : Params) {a : Addr} (ha : a = 0x00C ∨ a = 0x010) (v : Word32) :
    ∀ w ∈ wordWrites a v, (regAt p w.1).Storable := by
  simp only [wordWrites, List.forall_mem_cons]
  rcases ha with rfl | rfl <;> exact ⟨.inr rfl, .inr rfl, .inr rfl, .inr rfl, List.forall_mem_nil _⟩

/-- Settles O60: the four lines store the four bytes of the word over all of the register's old ones. -/
theorem wr32WritesAllFourBytes : Obligations.Wr32WritesAllFourBytes := by
  intro s v a b c d rest hb
  refine ⟨fun hin => ?timeout, fun hin => ?guard⟩
  case timeout =>
    obtain ⟨hpart, hrest⟩ := stateAfter_wr_lines (phys := [a, b, c, d]) (writes := wordWrites 0x00C v) rfl hin hb
      (wordWrites_storable _ (.inl rfl) v)
    obtain ⟨-, htx, hsqr, htimeout, hguard⟩ := fields_of_hostPart_eq (hpart.trans (storeAt_timeout _ v))
    exact ⟨htimeout, hguard, hsqr, htx, hrest⟩
  case guard =>
    obtain ⟨hpart, hrest⟩ := stateAfter_wr_lines (phys := [a, b, c, d]) (writes := wordWrites 0x010 v) rfl hin hb
      (wordWrites_storable _ (.inr rfl) v)
    obtain ⟨-, htx, hsqr, htimeout, hguard⟩ := fields_of_hostPart_eq (hpart.trans (storeAt_guard _ v))
    exact ⟨hguard, htimeout, hsqr, htx, hrest⟩

end Sys2Proof.Machine

namespace Sys2Proof.Machine

open Sys2Proof

/-! ### The checksum and the bytes it covers -/

/-- The sum modulo 256 that the checksum complements (40_packet_checksum.md R130). -/
def coveredSum (id len op : Byte) (pay : Memory) : Byte := id + len + op + paySum pay (len.toNat - 2)

theorem checksum_eq_not_coveredSum (id len op : Byte) (pay : Memory) :
    checksum id len op pay = ~~~coveredSum id len op pay := rfl

theorem verify_iff {id len op cs : Byte} {pay : Memory} :
    verify id len op pay cs = true ↔ cs = checksum id len op pay := decide_eq_true_iff

/-- The 8-bit payload sum is the unbounded one modulo 256. -/
theorem paySum_toNat (pay : Memory) (n : Nat) :
    (paySum pay n).toNat = ((List.range n).map fun i => (pay.read i).toNat).sum % 256 := by
  induction n with
  | zero => rfl
  | succ n ih => simp [paySum, ih, List.range_succ]

theorem coveredSum_toNat (id len op : Byte) (pay : Memory) : (coveredSum id len op pay).toNat =
    (id.toNat + len.toNat + op.toNat + ((List.range (len.toNat - 2)).map fun i => (pay.read i).toNat).sum) % 256 := by
  simp [coveredSum, paySum_toNat]

/-- The complement of a byte is its difference from 255. -/
theorem checksum_toNat (id len op : Byte) (pay : Memory) :
    (checksum id len op pay).toNat = 255 - (coveredSum id len op pay).toNat := by
  rw [checksum_eq_not_coveredSum, BitVec.toNat_not]

/-- A write at or above the count leaves the sum, since it replaces no covered byte. -/
theorem paySum_write_of_le {n i : Nat} (h : n ≤ i) (pay : Memory) (b : Byte) :
    paySum (pay.write i b) n = paySum pay n := by
  rw [paySum_write, if_neg (by omega)]

/-- Settles O16: the 8-bit sum agrees with the unbounded one modulo 256. -/
theorem checksumIsComplementedSum : Obligations.ChecksumIsComplementedSum := by
  intro _ id len op pay _ _
  rw [checksum_toNat, coveredSum_toNat]

/-- Settles O17: the payload sum stops before the written index. -/
theorem checksumIgnoresBytesBeyondPayload : Obligations.ChecksumIgnoresBytesBeyondPayload := by
  intro id len op pay i b h
  rw [checksum, checksum, paySum_write_of_le h]

/-- Settles O18: a byte and its complement sum to 0xFF, and no other byte completes the sum modulo 256. -/
theorem packetValidIffSumIsFF : Obligations.PacketValidIffSumIsFF := by
  intro id len op cs pay _
  have hcs := cs.isLt
  rw [verify_iff, BitVec.toNat_eq, checksum_toNat, coveredSum_toNat]
  omega

/-! ### Single byte changes -/

/-- Packets that verify with one checksum byte have one covered sum, since the complement loses nothing. -/
theorem coveredSum_eq_of_verify {id len op id' len' op' cs : Byte} {pay pay' : Memory}
    (h : verify id len op pay cs = true) (h' : verify id' len' op' pay' cs = true) :
    coveredSum id' len' op' pay' = coveredSum id len op pay :=
  BitVec.not_inj.mp ((verify_iff.mp h').symm.trans (verify_iff.mp h))

theorem coveredSum_id_inj {id id' len op : Byte} {pay : Memory} :
    coveredSum id len op pay = coveredSum id' len op pay ↔ id = id' := by simp [coveredSum]

theorem coveredSum_op_inj {id len op op' : Byte} {pay : Memory} :
    coveredSum id len op pay = coveredSum id len op' pay ↔ op = op' := by simp [coveredSum]

/-- Replacing a covered payload byte keeps the sum only if it keeps the byte. -/
theorem coveredSum_write_eq_iff {id len op b : Byte} {pay : Memory} {i : Nat} (hi : i + 2 < len.toNat) :
    coveredSum id len op (pay.write i b) = coveredSum id len op pay ↔ b = pay.read i := by
  have hcovered : i < len.toNat - 2 := by omega
  rw [coveredSum, coveredSum, add_right_inj, paySum_write, if_pos hcovered]
  constructor <;> intro h <;> bv_omega

/-- Settles O19: a changed packet that still verified would have the covered sum of the valid one, which every single
change of a covered byte alters; and a packet has only one valid checksum byte. -/
theorem singleByteChangeIsDetected : Obligations.SingleByteChangeIsDetected := by
  intro id len op cs b pay hv
  simp only [← Bool.not_eq_true]
  refine ⟨mt fun h => ?id, mt fun h => ?op, mt fun h => ?cs, fun i hi => mt fun h => ?payload⟩
  case id => exact coveredSum_id_inj.mp (coveredSum_eq_of_verify hv h)
  case op => exact coveredSum_op_inj.mp (coveredSum_eq_of_verify hv h)
  case cs => exact (verify_iff.mp h).trans (verify_iff.mp hv).symm
  case payload => exact (coveredSum_write_eq_iff hi).mp (coveredSum_eq_of_verify hv h)

/-! ### Accepted commands that rewrite the TX packet -/

/-- ABORT of a response wait is itself RX-affecting (10_state.md R44). -/
theorem abortsAwait_of_not_rxAffecting {s : State} {h : HostWrite} (hr : rxAffecting s h = false) :
    abortsAwait s h = false := by
  cases h with
  | cmd c effect =>
    cases c with
    | abort => exact hr
    | _ => rfl
  | none | reg _ _ | refused _ => rfl

/-- A command that is not RX-affecting raises the events of the cycle with no host write (10_state.md R47). -/
theorem cycleEvents_cmd_of_not_rxAffecting {s : State} {c : Instr} {effect : State → State → State}
    (hr : rxAffecting s (.cmd c effect) = false) : cycleEvents s (.cmd c effect) = cycleEvents s .none := by
  rw [cycleEvents, cycleEvents, afterDeserializer_of_not_rxAffecting hr,
    afterSequencer_of_not_rxAffecting hr (abortsAwait_of_not_rxAffecting hr)]
  rfl

/-- The cycle of a command that is not RX-affecting and writes the TX packet alone is the cycle with no host write, but
for that packet (10_state.md R46). -/
theorem runCycle_cmd_of_tx_effect {s : State} {c : Instr} {effect : State → State → State} {p : TxPacket}
    (hr : rxAffecting s (.cmd c effect) = false) (he : ∀ t, t.tx = s.tx → effect s t = { t with tx := p }) :
    runCycle s (.cmd c effect) = { quietCycle s with tx := p } := by
  rw [runCycle_cmd, cycleEvents_cmd_of_not_rxAffecting hr,
    afterSequencer_of_not_rxAffecting hr (abortsAwait_of_not_rxAffecting hr), he _ (afterSequencer_tx s .none)]
  rfl

/-- A command that needs idle and passes its operand check is accepted while not BUSY (30_encoding.md R112). -/
theorem commandCycle_accepted_of_not_busy {s : State} {check : Option ErrCode} (hb : s.busy = false)
    (hc : check = none) (c : Instr) (effect : State → State → State) :
    commandCycle s c [busyCheck s, check] effect = runCycle s (.cmd c effect) :=
  commandCycle_accepted (firstFailure_eq_none.mpr (by simp [busyCheck_eq_none.mpr hb, hc]))

/-- Settles O23: past its two checks SET_CHECKSUM is an effect on the TX packet alone. -/
theorem setChecksumAccepted : Obligations.SetChecksumAccepted := by
  intro s hb hlo hhi
  refine congrArg Host.Outcome.next ?_
  rw [commandCycle_accepted_of_not_busy hb (txLenCheck_eq_none.mpr ⟨hlo, hhi⟩)]
  exact runCycle_cmd_of_tx_effect rfl fun t ht => by rw [setChecksumEffect, ht, TxPacket.checksum]

end Sys2Proof.Machine

namespace Sys2Proof.Machine

open Sys2Proof

/-! ### The packets of the builder commands -/

/-- The payload the builders lay out first: two bytes at the start of the buffer, the rest kept (41_builder.md R150). -/
theorem Memory.read_write_zero_one (m : Memory) (a b : Byte) :
    ((m.write 0 a).write 1 b).read 0 = a ∧ ((m.write 0 a).write 1 b).read 1 = b ∧
      ∀ i ≥ 2, ((m.write 0 a).write 1 b).read i = m.read i := by
  refine ⟨?first, Memory.read_write_same _ _ _, fun i hi => ?rest⟩
  case first => rw [Memory.read_write_other _ _ (by decide), Memory.read_write_same]
  case rest => rw [Memory.read_write_other _ _ (by omega), Memory.read_write_other _ _ (by omega)]

theorem Memory.read_write_zero_one_two (m : Memory) (a b c : Byte) :
    (((m.write 0 a).write 1 b).write 2 c).read 0 = a ∧ (((m.write 0 a).write 1 b).write 2 c).read 1 = b ∧
      (((m.write 0 a).write 1 b).write 2 c).read 2 = c ∧
      ∀ i ≥ 3, (((m.write 0 a).write 1 b).write 2 c).read i = m.read i := by
  obtain ⟨hfirst, hsecond, hrest⟩ := Memory.read_write_zero_one m a b
  refine ⟨?first, ?second, Memory.read_write_same _ _ _, fun i hi => ?rest⟩
  case first => rw [Memory.read_write_other _ _ (by decide), hfirst]
  case second => rw [Memory.read_write_other _ _ (by decide), hsecond]
  case rest => rw [Memory.read_write_other _ _ (by omega), hrest i (by omega)]

theorem paySum_write_zero_one (m : Memory) (a b : Byte) : paySum ((m.write 0 a).write 1 b) 2 = a + b := by
  obtain ⟨hfirst, hsecond, _⟩ := Memory.read_write_zero_one m a b
  rw [paySum, paySum, paySum, hfirst, hsecond, BitVec.zero_add]

theorem paySum_write_zero_one_two (m : Memory) (a b c : Byte) :
    paySum (((m.write 0 a).write 1 b).write 2 c) 3 = a + b + c := by
  rw [paySum, paySum_write_of_le le_rfl, paySum_write_zero_one, Memory.read_write_same]

/-- Length 4 covers exactly the two bytes laid out (40_packet_checksum.md R130). -/
theorem checksum_write_zero_one (id op a b : Byte) (m : Memory) :
    checksum id 4#8 op ((m.write 0 a).write 1 b) = ~~~(id + 4#8 + op + a + b) := by
  rw [checksum, show (4#8).toNat - 2 = 2 from rfl, paySum_write_zero_one]
  simp only [add_assoc]

/-- Length 5 covers exactly the three bytes laid out (40_packet_checksum.md R130). -/
theorem checksum_write_zero_one_two (id op a b c : Byte) (m : Memory) :
    checksum id 5#8 op (((m.write 0 a).write 1 b).write 2 c) = ~~~(id + 5#8 + op + a + b + c) := by
  rw [checksum, show (5#8).toNat - 2 = 3 from rfl, paySum_write_zero_one_two]
  simp only [add_assoc]

theorem readPacket_cs (s : State) :
    (readPacket s).cs = ~~~(s.tx.id + 4#8 + s.params.instrRead + s.regs.arg0 + s.regs.arg1) :=
  checksum_write_zero_one _ _ _ _ _

theorem write8Packet_cs (s : State) :
    (write8Packet s).cs = ~~~(s.tx.id + 4#8 + s.params.instrWrite + s.regs.arg0 + s.regs.arg1) :=
  checksum_write_zero_one _ _ _ _ _

/-- The halves of value16 are ARG1 and ARG2, low byte first (30_encoding.md R111; 41_builder.md R153). -/
theorem write16Packet_pay (s : State) :
    (write16Packet s).pay = ((s.tx.pay.write 0 s.regs.arg0).write 1 s.regs.arg1).write 2 s.regs.arg2 := by
  obtain ⟨hlow, hhigh⟩ := lowByte_highByte_append s.regs.arg2 s.regs.arg1
  simp only [write16Packet, TxPacket.sealed_pay, State.address, State.value16, hlow, hhigh]

theorem write16Packet_cs (s : State) : (write16Packet s).cs =
    ~~~(s.tx.id + 5#8 + s.params.instrWrite + s.regs.arg0 + s.regs.arg1 + s.regs.arg2) := by
  have hsealed : (write16Packet s).cs = checksum s.tx.id 5#8 s.params.instrWrite (write16Packet s).pay := rfl
  rw [hsealed, write16Packet_pay, checksum_write_zero_one_two]

/-! ### The builder commands -/

/-- Past its checks a builder command is the cycle with no host write, but for the packet it builds
(41_builder.md R150). -/
theorem commandCycle_build {s : State} {c : Instr} {checks : List (Option ErrCode)} {packet : State → TxPacket}
    (hc : firstFailure checks = none) (hr : rxAffecting s (.cmd c fun s t => { t with tx := packet s }) = false) :
    commandCycle s c checks (fun s t => { t with tx := packet s }) = { quietCycle s with tx := packet s } := by
  rw [commandCycle_accepted hc]
  exact runCycle_cmd_of_tx_effect hr fun _ _ => rfl

theorem firstFailure_busyCheck {s : State} (hb : s.busy = false) : firstFailure [busyCheck s] = none := by
  rw [busyCheck_eq_none.mpr hb]; rfl

theorem firstFailure_busyCheck_countCheck {s : State} (hb : s.busy = false)
    (hcount : s.regs.arg1.toNat ≤ s.params.payloadCap) : firstFailure [busyCheck s, countCheck s] = none := by
  rw [busyCheck_eq_none.mpr hb, countCheck_eq_none.mpr hcount]; rfl

/-- Settles O24: the packet is `readPacket`, whose checksum covers its two payload bytes. -/
theorem buildReadAccepted : Obligations.BuildReadAccepted := fun s hb hcount =>
  ⟨readPacket s, congrArg Host.Outcome.next (commandCycle_build (firstFailure_busyCheck_countCheck hb hcount) rfl),
    rfl, rfl, rfl, readPacket_cs s, Memory.read_write_zero_one s.tx.pay s.regs.arg0 s.regs.arg1⟩

/-- Settles O25: the packet is `write8Packet`, whose checksum covers its two payload bytes. -/
theorem buildWrite8Accepted : Obligations.BuildWrite8Accepted := fun s hb =>
  ⟨write8Packet s, congrArg Host.Outcome.next (commandCycle_build (firstFailure_busyCheck hb) rfl),
    rfl, rfl, rfl, write8Packet_cs s, Memory.read_write_zero_one s.tx.pay s.regs.arg0 s.regs.arg1⟩

/-- Settles O26: the packet is `write16Packet`, whose payload is ARG0, ARG1, ARG2 in this order. -/
theorem buildWrite16Accepted : Obligations.BuildWrite16Accepted := by
  intro s hb
  refine ⟨write16Packet s, congrArg Host.Outcome.next (commandCycle_build (firstFailure_busyCheck hb) rfl),
    rfl, rfl, rfl, write16Packet_cs s, ?_⟩
  rw [write16Packet_pay]
  exact Memory.read_write_zero_one_two s.tx.pay s.regs.arg0 s.regs.arg1 s.regs.arg2

end Sys2Proof.Machine

namespace Sys2Proof.Machine

open Sys2Proof

/-! ### One byte at the deserializer -/

theorem RxUnit.consume_header1 {r : RxUnit} (hp : r.phase = .header1) (cap : Nat) (b : Byte) :
    r.consume cap b = r.onHeader1 b := by simp [RxUnit.consume, hp]

theorem RxUnit.consume_header2 {r : RxUnit} (hp : r.phase = .header2) (cap : Nat) (b : Byte) :
    r.consume cap b = r.onHeader2 b := by simp [RxUnit.consume, hp]

theorem RxUnit.consume_packetId {r : RxUnit} (hp : r.phase = .packetId) (cap : Nat) (b : Byte) :
    r.consume cap b = r.onPacketId b := by simp [RxUnit.consume, hp]

theorem RxUnit.consume_length {r : RxUnit} (hp : r.phase = .length) (cap : Nat) (b : Byte) :
    r.consume cap b = r.onLength cap b := by simp [RxUnit.consume, hp]

theorem RxUnit.consume_payload {r : RxUnit} (hp : r.phase = .payload) (cap : Nat) (b : Byte) :
    r.consume cap b = r.onPayload b := by simp [RxUnit.consume, hp]

theorem RxUnit.consume_ready {r : RxUnit} (hp : r.phase = .ready) (cap : Nat) (b : Byte) :
    r.consume cap b = r := by simp [RxUnit.consume, hp]

/-- HEADER1 writes RXSTATE alone (42_monitor.md R173). -/
theorem RxUnit.onHeader1_eq {r : RxUnit} (hp : r.phase = .header1) (b : Byte) :
    r.onHeader1 b = { r with phase := if b = 0xFF#8 then .header2 else .header1 } := by
  unfold RxUnit.onHeader1
  split
  · rfl
  · rw [← hp]

/-- LENGTH with the discard of R175 said by its two causes. -/
theorem RxUnit.onLength_eq (cap : Nat) (r : RxUnit) (b : Byte) : r.onLength cap b =
    { r with
      len := b
      pos := 0#8
      phase := if b.toNat < 2 ∨ cap + 2 < b.toNat then .header1 else .payload } := by
  unfold RxUnit.onLength
  by_cases hlen : 2 ≤ b.toNat ∧ b.toNat ≤ cap + 2
  · rw [if_pos hlen, if_neg (by omega)]
  · rw [if_neg hlen, if_pos (by omega)]

/-- Settles O45, phase by phase. -/
theorem headerIdAndLengthTransitions : Obligations.HeaderIdAndLengthTransitions := by
  refine fun p r b => ⟨fun hp => ?header1, fun hp => ?header2, fun hp => ?packetId, fun hp => ?length⟩
  case header1 => rw [RxUnit.consume_header1 hp, RxUnit.onHeader1_eq hp]
  case header2 => exact RxUnit.consume_header2 hp _ _
  case packetId => exact RxUnit.consume_packetId hp _ _
  case length => rw [RxUnit.consume_length hp, RxUnit.onLength_eq]

/-! ### A payload-phase byte by its position -/

/-- The first payload-phase byte is the opcode (42_monitor.md R176). -/
theorem RxUnit.consume_opcodeByte {r : RxUnit} (hp : r.phase = .payload) (hlo : 2 ≤ r.len.toNat) (h0 : r.pos = 0#8)
    (cap : Nat) (b : Byte) : r.consume cap b = { r with op := b, pos := r.pos + 1#8 } := by
  have hmore : 1 ≠ r.len.toNat := by omega
  simp [RxUnit.consume_payload hp, RxUnit.onPayload, RxUnit.storePayloadByte, h0, RxUnit.payloadPhase, hmore, hp]

/-- A byte between the opcode and the checksum goes to RX_PAY (42_monitor.md R176). -/
theorem RxUnit.consume_payloadByte {r : RxUnit} (hp : r.phase = .payload) (hpos : 1 ≤ r.pos.toNat)
    (hmore : r.pos.toNat + 1 < r.len.toNat) (cap : Nat) (b : Byte) :
    r.consume cap b = { r with pay := r.pay.write (r.pos.toNat - 1) b, pos := r.pos + 1#8 } := by
  have h0 : r.pos ≠ 0#8 := fun h => by simp [h] at hpos
  have hlt : r.pos.toNat < r.len.toNat - 1 := by omega
  simp [RxUnit.consume_payload hp, RxUnit.onPayload, RxUnit.storePayloadByte, h0, hlt, RxUnit.payloadPhase, hmore.ne, hp]

/-- The last byte of a frame goes to RX_CS and decides between READY and HEADER1 (42_monitor.md R176, R177). -/
theorem RxUnit.consume_checksumByte {r : RxUnit} (hp : r.phase = .payload) (hlo : 2 ≤ r.len.toNat)
    (hlast : r.pos.toNat + 1 = r.len.toNat) (cap : Nat) (b : Byte) : r.consume cap b =
      { r with
        cs := b
        pos := r.pos + 1#8
        phase := if b = checksum r.id r.len r.op r.pay then .ready else .header1 } := by
  simp [RxUnit.consume_payload hp, RxUnit.onPayload, RxUnit.storePayloadByte_last hlo hlast, RxUnit.payloadPhase, hlast,
    verify_iff]

/-- RX_POS counts a payload-phase byte without wrapping: it stays at most RX_LEN. -/
theorem RxUnit.pos_succ_toNat {r : RxUnit} (hlt : r.pos.toNat < r.len.toNat) :
    (r.pos + 1#8).toNat = r.pos.toNat + 1 := by
  have := r.len.isLt
  rw [BitVec.toNat_add, BitVec.toNat_ofNat]; omega

/-- Settles O46: the byte is the opcode, a payload byte or the checksum. -/
theorem payloadTransition : Obligations.PayloadTransition := by
  intro p r b hp hlo hlt
  have hsucc := RxUnit.pos_succ_toNat hlt
  have hcases : r.pos = 0#8 ∨ 1 ≤ r.pos.toNat ∧ r.pos.toNat + 1 < r.len.toNat ∨
      1 ≤ r.pos.toNat ∧ r.pos.toNat + 1 = r.len.toNat := by bv_omega
  rcases hcases with h0 | ⟨hpos, hmore⟩ | ⟨hpos, hlast⟩
  · rw [RxUnit.consume_opcodeByte hp hlo h0]
    have hlen : 0 ≠ r.len.toNat - 1 ∧ 1 ≠ r.len.toNat := by omega
    simp [h0, hlen, hp]
  · rw [RxUnit.consume_payloadByte hp hpos hmore]
    have h0 : r.pos.toNat ≠ 0 ∧ r.pos.toNat ≠ r.len.toNat - 1 ∧ r.pos.toNat ≤ r.len.toNat - 2 := by omega
    simp [hsucc, h0, hmore.ne, hp, Memory.read_write, hpos]
  · rw [RxUnit.consume_checksumByte hp hlo hlast]
    have h0 : r.pos.toNat ≠ 0 ∧ r.len.toNat - 1 = r.pos.toNat ∧ ¬r.pos.toNat ≤ r.len.toNat - 2 := by omega
    simp [hsucc, hlast, h0]

end Sys2Proof.Machine

namespace Sys2Proof.Machine

open Sys2Proof

/-! ### A list of bytes in a buffer -/

/-- The buffer with a list of bytes stored from an index on. -/
def Memory.writeList (m : Memory) (a : Nat) : List Byte → Memory
  | [] => m
  | b :: bs => (m.write a b).writeList (a + 1) bs

/-- Outside the written range a buffer reads as before. -/
theorem Memory.read_writeList_of_outside {a i : Nat} {bs : List Byte} (hi : i < a ∨ a + bs.length ≤ i) (m : Memory) :
    (m.writeList a bs).read i = m.read i := by
  induction bs generalizing m a with
  | nil => rfl
  | cons b bs ih =>
    rw [List.length_cons] at hi
    rw [Memory.writeList, ih (by omega), Memory.read_write_other _ _ (by omega)]

/-- A written list is read back. -/
theorem Memory.read_writeList {i : Nat} {bs : List Byte} (hi : i < bs.length) (a : Nat) (m : Memory) :
    (m.writeList a bs).read (a + i) = bs[i] := by
  induction bs generalizing m a i with
  | nil => exact absurd hi (Nat.not_lt_zero i)
  | cons b bs ih =>
    rw [Memory.writeList]
    cases i with
    | zero => rw [Memory.read_writeList_of_outside (.inl (by omega))]; simp
    | succ i =>
      rw [List.length_cons] at hi
      rw [show a + (i + 1) = a + 1 + i by omega, ih (by omega), List.getElem_cons_succ]

/-- The sum of a payload stored at the start of the buffer. -/
theorem paySum_writeList (m : Memory) (bs : List Byte) : paySum (m.writeList 0 bs) bs.length = bs.sum :=
  paySum_eq_sum _ bs fun i hi => by simpa using Memory.read_writeList hi 0 m

/-! ### A list of bytes at the deserializer -/

@[simp] theorem RxUnit.consumeAll_nil (cap : Nat) (r : RxUnit) : r.consumeAll cap [] = r := rfl

@[simp] theorem RxUnit.consumeAll_cons (cap : Nat) (r : RxUnit) (b : Byte) (bs : List Byte) :
    r.consumeAll cap (b :: bs) = (r.consume cap b).consumeAll cap bs := rfl

theorem RxUnit.consumeAll_append (cap : Nat) (r : RxUnit) (as bs : List Byte) :
    r.consumeAll cap (as ++ bs) = (r.consumeAll cap as).consumeAll cap bs := List.foldl_append

/-- READY consumes nothing (42_monitor.md R178). -/
theorem RxUnit.consumeAll_of_ready {r : RxUnit} (hp : r.phase = .ready) (cap : Nat) (bs : List Byte) :
    r.consumeAll cap bs = r := by
  induction bs with
  | nil => rfl
  | cons b bs ih => rw [RxUnit.consumeAll_cons, RxUnit.consume_ready hp, ih]

/-- A deserializer that is not READY after a list of bytes was not READY after any beginning of it. -/
theorem RxUnit.consumeAll_take_not_ready {cap : Nat} {r : RxUnit} {bs : List Byte}
    (h : (r.consumeAll cap bs).phase ≠ .ready) (k : Nat) : (r.consumeAll cap (bs.take k)).phase ≠ .ready := by
  intro hk
  rw [← List.take_append_drop k bs, RxUnit.consumeAll_append, RxUnit.consumeAll_of_ready hk] at h
  exact h hk

/-- Payload bytes that leave room for the checksum are stored one after the other (42_monitor.md R176). -/
theorem RxUnit.consumeAll_payload {r : RxUnit} {bs : List Byte} (hp : r.phase = .payload) (hpos : 1 ≤ r.pos.toNat)
    (hroom : r.pos.toNat + bs.length < r.len.toNat) (cap : Nat) : r.consumeAll cap bs =
      { r with pay := r.pay.writeList (r.pos.toNat - 1) bs, pos := r.pos + BitVec.ofNat 8 bs.length } := by
  induction bs generalizing r with
  | nil => simp [Memory.writeList]
  | cons b bs ih =>
    rw [List.length_cons] at hroom
    have hsucc := RxUnit.pos_succ_toNat (r := r) (by omega)
    rw [RxUnit.consumeAll_cons, RxUnit.consume_payloadByte hp hpos (by omega)]
    have hpos' : 1 ≤ (r.pos + 1#8).toNat := by omega
    have hroom' : (r.pos + 1#8).toNat + bs.length < r.len.toNat := by omega
    have hslot : r.pos.toNat + 1 - 1 = r.pos.toNat - 1 + 1 := by omega
    have hcount : r.pos + 1#8 + BitVec.ofNat 8 bs.length = r.pos + BitVec.ofNat 8 (bs.length + 1) := by
      rw [Nat.add_comm bs.length, BitVec.ofNat_add, BitVec.add_assoc]
    refine (ih ?_ ?_ ?_).trans ?_
    · exact hp
    · exact hpos'
    · exact hroom'
    · simp only [hsucc, hslot, hcount, List.length_cons, Memory.writeList]

/-! ### A whole frame -/

/-- A frame without its checksum byte (30_encoding.md R100). -/
def frameBody (id op : Byte) (payload : List Byte) : List Byte :=
  [0xFF#8, 0xFF#8, id, BitVec.ofNat 8 (payload.length + 2), op] ++ payload

theorem frameBytes_eq_frameBody_append (id op : Byte) (payload : List Byte) (cs : Byte) :
    frameBytes id op payload cs = frameBody id op payload ++ [cs] := rfl

/-- The receive unit that has consumed a frame's body from HEADER1: it stands before the checksum byte. -/
def RxUnit.beforeChecksum (r : RxUnit) (id op : Byte) (payload : List Byte) : RxUnit :=
  { r with
    phase := .payload
    pos := BitVec.ofNat 8 (payload.length + 1)
    id := id
    len := BitVec.ofNat 8 (payload.length + 2)
    op := op
    pay := r.pay.writeList 0 payload }

section
variable {p : Params} {r : RxUnit} {id op : Byte} {payload : List Byte}

/-- A payload inside the capacity has a length byte in the legal range (00_scope.md R4; 42_monitor.md R175). -/
theorem lengthByte_toNat (hcap : payload.length ≤ p.payloadCap) :
    (BitVec.ofNat 8 (payload.length + 2)).toNat = payload.length + 2 := by
  have := p.capLegal
  rw [BitVec.toNat_ofNat]; omega

/-- The two headers, the id, the length and the opcode lead to the first payload byte (42_monitor.md R173 to R176). -/
theorem RxUnit.consumeAll_frameHead (hp : r.phase = .header1) (hcap : payload.length ≤ p.payloadCap) :
    r.consumeAll p.payloadCap [0xFF#8, 0xFF#8, id, BitVec.ofNat 8 (payload.length + 2), op] =
      { r with
        phase := .payload, pos := 1#8, id := id, len := BitVec.ofNat 8 (payload.length + 2), op := op } := by
  have hlen := lengthByte_toNat hcap
  have hlegal : ¬(payload.length + 2 < 2 ∨ p.payloadCap + 2 < payload.length + 2) := by omega
  simp only [RxUnit.consumeAll_cons, RxUnit.consumeAll_nil, RxUnit.consume_header1 hp, RxUnit.onHeader1_eq hp,
    RxUnit.consume_header2, RxUnit.onHeader2, RxUnit.consume_packetId, RxUnit.onPacketId, RxUnit.consume_length,
    RxUnit.onLength_eq, RxUnit.consume_opcodeByte, hlen, hlegal, if_true, if_false, Nat.le_add_left]
  rfl

theorem RxUnit.consumeAll_frameBody (hp : r.phase = .header1) (hcap : payload.length ≤ p.payloadCap) :
    r.consumeAll p.payloadCap (frameBody id op payload) = r.beforeChecksum id op payload := by
  have hlen := lengthByte_toNat hcap
  have hpos : BitVec.ofNat 8 (payload.length + 1) = 1#8 + BitVec.ofNat 8 payload.length := by
    rw [Nat.add_comm, BitVec.ofNat_add]
  have hroom : 1 + payload.length < (BitVec.ofNat 8 (payload.length + 2)).toNat := by omega
  rw [frameBody, RxUnit.consumeAll_append, RxUnit.consumeAll_frameHead hp hcap]
  refine (RxUnit.consumeAll_payload ?_ ?_ ?_ _).trans ?_
  · rfl
  · exact le_rfl
  · exact hroom
  · rw [RxUnit.beforeChecksum, hpos]
    rfl

/-- The checksum the deserializer expects is that of the frame (40_packet_checksum.md R130; 42_monitor.md R177). -/
theorem checksum_beforeChecksum (hcap : payload.length ≤ p.payloadCap) :
    checksum id (BitVec.ofNat 8 (payload.length + 2)) op (r.pay.writeList 0 payload) =
      ~~~(id + BitVec.ofNat 8 (payload.length + 2) + op + payload.sum) := by
  rw [checksum, lengthByte_toNat hcap, Nat.add_sub_cancel, paySum_writeList]

/-- A whole frame from HEADER1: the body's bytes are stored, and the checksum byte decides (42_monitor.md R177). -/
theorem RxUnit.consumeAll_frameBytes (hp : r.phase = .header1) (hcap : payload.length ≤ p.payloadCap) (cs : Byte) :
    r.consumeAll p.payloadCap (frameBytes id op payload cs) =
      { r.beforeChecksum id op payload with
        cs := cs
        pos := BitVec.ofNat 8 (payload.length + 2)
        phase := if cs = ~~~(id + BitVec.ofNat 8 (payload.length + 2) + op + payload.sum) then .ready
          else .header1 } := by
  have hcap' := p.capLegal
  have hlen := lengthByte_toNat hcap
  have hlast : (BitVec.ofNat 8 (payload.length + 1)).toNat + 1 = (BitVec.ofNat 8 (payload.length + 2)).toNat := by
    rw [hlen, BitVec.toNat_ofNat]; omega
  have hend : BitVec.ofNat 8 (payload.length + 1) + 1#8 = BitVec.ofNat 8 (payload.length + 2) :=
    (BitVec.ofNat_add _ _).symm
  rw [frameBytes_eq_frameBody_append, RxUnit.consumeAll_append, RxUnit.consumeAll_frameBody hp hcap,
    RxUnit.consumeAll_cons, RxUnit.consumeAll_nil]
  rw [RxUnit.consume_checksumByte rfl (hlen.symm ▸ by omega) hlast]
  simp only [RxUnit.beforeChecksum, checksum_beforeChecksum hcap, hend]

/-- No beginning of a frame reaches READY before its last byte. -/
theorem RxUnit.consumeAll_take_frameBytes_not_ready (hp : r.phase = .header1) (hcap : payload.length ≤ p.payloadCap)
    (cs : Byte) {k : Nat} (hk : k < (frameBytes id op payload cs).length) :
    (r.consumeAll p.payloadCap ((frameBytes id op payload cs).take k)).phase ≠ .ready := by
  rw [frameBytes_eq_frameBody_append] at hk ⊢
  rw [List.length_append, List.length_singleton] at hk
  rw [List.take_append_of_le_length (by omega)]
  exact RxUnit.consumeAll_take_not_ready (by rw [RxUnit.consumeAll_frameBody hp hcap]; nofun) k

end

/-- Settles O47: the frame's body leaves the unit before the checksum byte, which is the one expected there. -/
theorem validFrameReachesReady : Obligations.ValidFrameReachesReady := by
  intro p r id op payload hp hcap
  dsimp only
  refine ⟨fun k hk => RxUnit.consumeAll_take_frameBytes_not_ready hp hcap _ hk, ?_⟩
  rw [RxUnit.consumeAll_frameBytes hp hcap, if_pos rfl]
  refine ⟨rfl, rfl, lengthByte_toNat hcap, rfl, rfl, rfl, fun i hi => ?inside, fun i hi => ?beyond⟩
  case inside => simpa [RxUnit.beforeChecksum] using Memory.read_writeList hi 0 r.pay
  case beyond => exact Memory.read_writeList_of_outside (.inr (by omega)) r.pay

/-- Settles O48: the last byte leads to HEADER1, and READY is never left. -/
theorem badChecksumFrameDiscarded : Obligations.BadChecksumFrameDiscarded := by
  intro p r id op cs payload hp hcap hcs
  have hend : (r.consumeAll p.payloadCap (frameBytes id op payload cs)).phase = .header1 := by
    rw [RxUnit.consumeAll_frameBytes hp hcap, if_neg hcs]
  exact ⟨fun k _ => RxUnit.consumeAll_take_not_ready (by rw [hend]; nofun) k, hend⟩

end Sys2Proof.Machine

namespace Sys2Proof.Machine

open Sys2Proof

/-! ### The deserializer comes to rest -/

/-- I3 of 10_state.md R48 for a receive unit. -/
def RxUnit.PayloadBounded (cap : Nat) (r : RxUnit) : Prop :=
  r.phase = .payload → 2 ≤ r.len.toNat ∧ r.len.toNat ≤ cap + 2 ∧ r.pos.toNat < r.len.toNat

/-- RXSTATE is HEADER1 or READY: no frame is half received (42_monitor.md R180). -/
def RxUnit.AtRest (r : RxUnit) : Prop := r.phase = .header1 ∨ r.phase = .ready

/-- A bound on the bytes a half received frame still takes. -/
def RxUnit.bytesLeft (cap : Nat) (r : RxUnit) : Nat :=
  match r.phase with
  | .header1 | .ready => 0
  | .header2 => cap + 5
  | .packetId => cap + 4
  | .length => cap + 3
  | .payload => r.len.toNat - r.pos.toNat

theorem RxUnit.bytesLeft_of_atRest {r : RxUnit} (h : r.AtRest) (cap : Nat) : r.bytesLeft cap = 0 := by
  rcases h with h | h <;> simp [RxUnit.bytesLeft, h]

theorem RxUnit.bytesLeft_of_payload {r : RxUnit} (h : r.phase = .payload) (cap : Nat) :
    r.bytesLeft cap = r.len.toNat - r.pos.toNat := by simp [RxUnit.bytesLeft, h]

theorem RxUnit.PayloadBounded.bytesLeft_le {cap : Nat} {r : RxUnit} (h : r.PayloadBounded cap) :
    r.bytesLeft cap ≤ cap + 5 := by
  unfold RxUnit.bytesLeft
  cases hp : r.phase with
  | payload => have := h hp; dsimp only; omega
  | _ => dsimp only; omega

theorem RxUnit.PayloadBounded.bytesLeft_pos {cap : Nat} {r : RxUnit} (h : r.PayloadBounded cap) (hr : ¬r.AtRest) :
    0 < r.bytesLeft cap := by
  unfold RxUnit.bytesLeft
  cases hp : r.phase with
  | header1 => exact absurd (.inl hp) hr
  | ready => exact absurd (.inr hp) hr
  | payload => have := h hp; dsimp only; omega
  | _ => dsimp only; omega

/-- A unit that came to rest is bounded, and has fewer bytes left than one that is not at rest. -/
theorem RxUnit.AtRest.bounded_and_bytesLeft_lt {cap n : Nat} {r : RxUnit} (h : r.AtRest) (hn : 0 < n) :
    r.PayloadBounded cap ∧ r.bytesLeft cap < n := by
  refine ⟨fun hp => ?_, by rwa [RxUnit.bytesLeft_of_atRest h]⟩
  rcases h with h | h <;> rw [h] at hp <;> cases hp

/-- A payload byte brings the frame one byte nearer to its end. -/
theorem RxUnit.consume_payload_progress {cap : Nat} {r : RxUnit} (h : r.PayloadBounded cap) (hp : r.phase = .payload)
    (b : Byte) : (r.consume cap b).PayloadBounded cap ∧ (r.consume cap b).bytesLeft cap < r.bytesLeft cap := by
  obtain ⟨hlo, hhi, hlt⟩ := h hp
  have hsucc := RxUnit.pos_succ_toNat hlt
  obtain ⟨-, hlen⟩ := r.storePayloadByte_header b
  rw [RxUnit.bytesLeft_of_payload hp, RxUnit.consume_payload hp]
  by_cases hlast : r.pos.toNat + 1 = r.len.toNat
  · refine RxUnit.AtRest.bounded_and_bytesLeft_lt ?_ (by omega)
    rw [RxUnit.AtRest, RxUnit.onPayload_phase, RxUnit.payloadPhase, if_pos hlast]
    split
    · exact .inr rfl
    · exact .inl rfl
  · have hphase : (r.onPayload b).phase = .payload := by rw [RxUnit.onPayload_phase, RxUnit.payloadPhase, if_neg hlast]
    rw [RxUnit.PayloadBounded, RxUnit.bytesLeft_of_payload hphase, RxUnit.onPayload_len, RxUnit.onPayload_pos, hlen,
      hsucc]
    omega

/-- Every byte consumed by a half received frame brings it nearer to its end (42_monitor.md R180). -/
theorem RxUnit.consume_progress {cap : Nat} {r : RxUnit} (h : r.PayloadBounded cap) (hr : ¬r.AtRest) (b : Byte) :
    (r.consume cap b).PayloadBounded cap ∧ (r.consume cap b).bytesLeft cap < r.bytesLeft cap := by
  have hpos := h.bytesLeft_pos hr
  cases hp : r.phase with
  | header1 => exact absurd (.inl hp) hr
  | ready => exact absurd (.inr hp) hr
  | payload => exact RxUnit.consume_payload_progress h hp b
  | header2 =>
    rw [RxUnit.consume_header2 hp]
    by_cases hb : b = 0xFF#8
    · simp [RxUnit.PayloadBounded, RxUnit.bytesLeft, hp, hb]
    · exact RxUnit.AtRest.bounded_and_bytesLeft_lt (.inl (by simp [hb])) hpos
  | packetId =>
    rw [RxUnit.consume_packetId hp]
    simp [RxUnit.PayloadBounded, RxUnit.bytesLeft, hp]
  | length =>
    rw [RxUnit.consume_length hp]
    by_cases hb : 2 ≤ b.toNat ∧ b.toNat ≤ cap + 2
    · have hphase : (r.onLength cap b).phase = .payload := if_pos hb
      have hstart : (0#8).toNat = 0 := rfl
      have hleft : r.bytesLeft cap = cap + 3 := by simp [RxUnit.bytesLeft, hp]
      rw [RxUnit.PayloadBounded, RxUnit.bytesLeft_of_payload hphase, hleft, RxUnit.onLength_len, RxUnit.onLength_pos,
        hstart]
      omega
    · exact RxUnit.AtRest.bounded_and_bytesLeft_lt (.inl (by simp [hb])) hpos

/-- With enough bytes to come the deserializer is at rest after some of them, by induction on the bytes. -/
theorem RxUnit.exists_atRest {cap : Nat} {bs : List Byte} {r : RxUnit} (h : r.PayloadBounded cap)
    (hlen : r.bytesLeft cap ≤ bs.length) : ∃ k ≤ bs.length, (r.consumeAll cap (bs.take k)).AtRest := by
  induction bs generalizing r with
  | nil =>
    by_cases hr : r.AtRest
    · exact ⟨0, le_rfl, hr⟩
    · exact absurd hlen (Nat.not_le.mpr (h.bytesLeft_pos hr))
  | cons b bs ih =>
    by_cases hr : r.AtRest
    · exact ⟨0, Nat.zero_le _, hr⟩
    · obtain ⟨hnext, hless⟩ := RxUnit.consume_progress h hr b
      rw [List.length_cons] at hlen
      obtain ⟨k, hk, hrest⟩ := ih hnext (by omega)
      exact ⟨k + 1, Nat.succ_le_succ hk, hrest⟩

/-- Settles O49: no phase has more than PAYLOAD_CAP + 5 bytes left. -/
theorem deserializerNeverStuck : Obligations.DeserializerNeverStuck := by
  intro p r bytes hI3 hlen
  exact RxUnit.exists_atRest hI3 (hlen ▸ RxUnit.PayloadBounded.bytesLeft_le hI3)

end Sys2Proof.Machine

namespace Sys2Proof.Machine

open Sys2Proof

/-! ### READY holds the packet -/

/-- While the deserializer is READY phase 3 pops nothing (42_monitor.md R178). -/
theorem afterDeserializer_of_ready {s : State} (hp : s.rx.phase = .ready) (h : HostWrite) :
    afterDeserializer s h = afterIngress s := by simp [afterDeserializer, pops, hp]

theorem abortsAwait_of_not_busy {s : State} (hb : s.busy = false) (h : HostWrite) : abortsAwait s h = false := by
  cases ha : abortsAwait s h with
  | false => rfl
  | true => simp [State.busy, seq_of_abortsAwait ha] at hb

/-- Phase 5 changes the receive unit only for RX_RESET, for RECEIVE and for the ABORT of a response wait (10_state.md
R46). -/
theorem runCycle_rx_of_no_rxCommand {s : State} {h : HostWrite} (hw : IsHostWrite s h)
    (hreset : fetchCommand s.input ≠ some 0x01#8) (hreceive : fetchCommand s.input ≠ some 0x09#8)
    (ha : abortsAwait s h = false) : (runCycle s h).rx = (afterSequencer s h).rx := by
  cases hw with
  | rxReset hf => exact absurd hf hreset
  | receive hf => exact absurd hf hreceive
  | abort hf =>
    have hq : s.sqr.seq ≠ .await := of_decide_eq_false ha
    simp [runCycle, afterHost, abortEffect_of_not_await hq]
  | store r v => simp [runCycle, afterHost, Reg.store_frame]
  | _ => rfl

/-- Settles O51: nothing is popped, phase 4 is idle, and phase 5 at most flushes the FIFO. -/
theorem readyHoldsThePacket : Obligations.ReadyHoldsThePacket := by
  intro s hr hb hp hreset hreceive
  obtain ⟨h, hw, he, -⟩ := step_eq_runCycle hr
  refine ⟨_, he, ?rx, ?rd⟩
  case rx =>
    rw [runCycle_rx_of_no_rxCommand hw hreset hreceive (abortsAwait_of_not_busy hb h), afterSequencer_of_not_busy hb,
      afterDeserializer_of_ready hp, afterIngress_rx]
  case rd =>
    rcases runCycle_fifo hw with e | e <;> rw [e, afterDeserializer_of_ready hp]
    · exact .inl (afterIngress_fifo_rd s)
    · exact .inr rfl

/-! ### Cycles that raise no event -/

/-- A sequencer step that ends no guard interval and no response wait raises no event of its own and, in a response wait,
counts (43_controller.md R230 to R232). -/
theorem seqStep_of_no_end {s t : State} (ht : t.sqr = s.sqr) (hguard : s.sqr.seq = .guard → s.sqr.gcnt ≠ s.regs.guard)
    (hawait : s.sqr.seq = .await → t.rx.phase ≠ .ready ∧ s.sqr.tmr ≠ s.regs.timeout) (txReady : Bool) :
    let v := seqStep s t txReady
    (v.sqr.seq = .complete → s.sqr.seq = .complete) ∧ (v.sqr.seq = .timedOut → s.sqr.seq = .timedOut) ∧
      (s.sqr.seq = .guard → v.sqr.seq = .guard) ∧
      (s.sqr.seq = .await → v.sqr = { s.sqr with tmr := s.sqr.tmr + 1#32 }) := by
  dsimp only
  cases hs : s.sqr.seq with
  | sending =>
    cases txReady <;> by_cases hlast : s.sqr.txIdx + 1#9 = s.tx.len.zeroExtend 9 + 4#9 <;>
      simp [seqStep, sendStep, hs, hlast, ht]
  | guard => simp [seqStep, guardStep, hs, hguard hs, ht]
  | await => simp [seqStep, awaitStep, hs, hawait hs, ht]
  | idle | complete | timedOut => simp [seqStep, hs, ht]

/-- No move of phases 3 and 4 that reports an event, and no refusal: no event bit (20_memory.md R66). -/
theorem cycleEvents_bits_of_no_move {s : State} {h : HostWrite}
    (hdone : (afterSequencer s h).sqr.seq = .complete → s.sqr.seq = .complete)
    (htimeout : (afterSequencer s h).sqr.seq = .timedOut → s.sqr.seq = .timedOut)
    (hguard : s.sqr.seq = .guard → (afterSequencer s h).sqr.seq = .guard)
    (hready : (afterDeserializer s h).rx.phase = .ready → s.rx.phase = .ready) (hrefused : h.isRefused = false) :
    (cycleEvents s h).bits = 0#5 := by
  have hnone : cycleEvents s h = ⟨false, false, false, false, false⟩ := by
    simp only [cycleEvents, eventsOf, Events.mk.injEq, decide_eq_false_iff_not, not_and, not_not, hrefused, and_true]
    exact ⟨fun hn hq => hn (hdone hq), fun hn hq => hn (htimeout hq), hguard, fun hn hq => hn (hready hq)⟩
  rw [hnone]
  rfl

/-- Settles O52: phase 3 is the only phase of such a cycle that could raise an event, by entering READY. -/
theorem decodeErrorsAreSilent : Obligations.DecodeErrorsAreSilent := by
  intro s hr hwe hguard hawait
  refine ⟨_, step_of_no_write hr hwe, fun hrx => ?_⟩
  have hkeep : ¬sequencerResetsRx s (afterDeserializer s .none).rx := by
    rintro (⟨hs, hg, -⟩ | ⟨hs, -, ht⟩)
    · exact hguard hs hg
    · exact (hawait hs).2 ht
  have hrx' : (quietCycle s).rx = (afterDeserializer s .none).rx := by
    rw [quietCycle_rx, afterSequencer_none, seqStep_rx_of_not_resets hkeep]
  rw [hrx'] at hrx
  have hnotReady : s.sqr.seq = .await → (afterDeserializer s .none).rx.phase ≠ .ready :=
    fun hs => hrx.resolve_left (hawait hs).1
  obtain ⟨hdone, htimeout, hstay, hcount⟩ := seqStep_of_no_end (afterDeserializer_sqr s .none) hguard
    (fun hs => ⟨hnotReady hs, (hawait hs).2⟩) s.input.txReady
  rw [← afterSequencer_none] at hdone htimeout hstay hcount
  have hbits := cycleEvents_bits_of_no_move hdone htimeout hstay (fun h => hrx.resolve_right (not_not_intro h)) rfl
  have hregs : (quietCycle s).regs = s.regs := by rw [quietCycle_regs, nextStatus_of_quiet rfl hbits]
  exact ⟨hregs, by rw [irq, irq, hregs], fun hs => by rw [quietCycle_sqr, hcount hs]⟩

/-! ### RX_RESET -/

/-- Outside a response wait the sequencer does not look at the receive unit (43_controller.md R230, R231). -/
theorem seqStep_sqr_congr {s t u : State} (hs : s.sqr.seq ≠ .await) (h : t.sqr = u.sqr) (txReady : Bool) :
    (seqStep s t txReady).sqr = (seqStep s u txReady).sqr := by
  unfold seqStep
  cases hq : s.sqr.seq with
  | sending => dsimp only; unfold sendStep; (repeat' split) <;> simp [h]
  | guard => dsimp only; unfold guardStep; (repeat' split) <;> simp [h]
  | await => exact absurd hq hs
  | idle | complete | timedOut => exact h

/-- What the sequencer does in a response wait that receives nothing (43_controller.md R232). -/
theorem seqStep_sqr_of_await {s t : State} (hs : s.sqr.seq = .await) (hp : t.rx.phase ≠ .ready) (ht : t.sqr = s.sqr)
    (txReady : Bool) : (seqStep s t txReady).sqr =
      if s.sqr.tmr = s.regs.timeout then { s.sqr with seq := .timedOut }
      else { s.sqr with tmr := s.sqr.tmr + 1#32 } := by
  unfold seqStep
  rw [hs]
  dsimp only
  rw [awaitStep, if_neg hp, ht]
  split <;> rfl

/-- The host write of an RX_RESET. -/
def rxResetWrite : HostWrite := .cmd .rxReset fun _ t => { t with rx := t.rx.reset }

theorem exec_rxReset (s : State) : exec .rxReset s = .next (runCycle s rxResetWrite) := rfl

/-- RX_RESET suppresses the pop of its cycle, and no other part of it (10_state.md R44, R45). -/
theorem afterSequencer_rxResetWrite (s : State) :
    afterSequencer s rxResetWrite = seqStep s (afterIngress s) s.input.txReady := by
  rw [afterSequencer, afterDeserializer_of_rxAffecting rfl]
  rfl

theorem runCycle_rxResetWrite_rx (s : State) : (runCycle s rxResetWrite).rx = s.rx.reset := by
  change (afterSequencer s rxResetWrite).rx.reset = _
  have hpop : (afterDeserializer s rxResetWrite).rx = s.rx := by
    rw [afterDeserializer_of_rxAffecting rfl, afterIngress_rx]
  rcases afterSequencer_rx s rxResetWrite with e | e
  · rw [e, hpop]
  · rw [e, hpop]
    rfl

theorem runCycle_rxResetWrite_regs (s : State) : (runCycle s rxResetWrite).regs =
    { s.regs with status := s.regs.status ||| (cycleEvents s rxResetWrite).bits } := by
  have hstatus : nextStatus s rxResetWrite (cycleEvents s rxResetWrite) =
      s.regs.status ||| (cycleEvents s rxResetWrite).bits := by
    rw [nextStatus, show rxResetWrite.w1cMask = 0#5 from rfl, BitVec.not_zero, BitVec.and_allOnes]
  have hupdate : (runCycle s rxResetWrite).regs =
      { (afterSequencer s rxResetWrite).regs with
        status := nextStatus s rxResetWrite (cycleEvents s rxResetWrite)
        err := nextErr s rxResetWrite } := rfl
  rw [hupdate, hstatus, afterSequencer_regs]
  rfl

/-- RX_RESET raises neither RXRDY nor CMDERR, in any state: it pops nothing and is never refused (42_monitor.md R179). -/
theorem runCycle_rxResetWrite_status {i : Nat} (hi : i ∈ [3, 4]) (s : State) :
    (runCycle s rxResetWrite).regs.status.getLsbD i = s.regs.status.getLsbD i := by
  obtain ⟨-, -, -, h3, h4⟩ := Events.getLsbD_bits (cycleEvents s rxResetWrite)
  have hrxRdy : (cycleEvents s rxResetWrite).rxRdy = false := by
    simp [cycleEvents, eventsOf, afterDeserializer_of_rxAffecting (s := s) (h := rxResetWrite) rfl]
  have hcmdErr : (cycleEvents s rxResetWrite).cmdErr = false := rfl
  rw [runCycle_rxResetWrite_regs, BitVec.getLsbD_or]
  rcases List.mem_pair.mp hi with rfl | rfl
  · rw [h3, hrxRdy, Bool.or_false]
  · rw [h4, hcmdErr, Bool.or_false]

/-- Settles O21: phase 4 runs as in the quiet cycle, but on a receive unit that has consumed nothing. -/
theorem rxResetCommand : Obligations.RxResetCommand := by
  intro s
  obtain ⟨hregs, hclock, hingress⟩ := commandsKeepHostRegisters .rxReset s _ (exec_rxReset s)
  have hsqr : (runCycle s rxResetWrite).sqr = (seqStep s (afterIngress s) s.input.txReady).sqr := by
    rw [← afterSequencer_rxResetWrite]
    rfl
  refine ⟨_, exec_rxReset s, runCycle_rxResetWrite_rx s, ?rd, hingress, ?tx, hregs, ?err,
    fun i hi => runCycle_rxResetWrite_status hi s, fun hI2 => ?status, fun hq => ?sqr, fun hq hp => ?await, hclock⟩
  case rd =>
    change (afterSequencer s rxResetWrite).fifo.rd = _
    rw [afterSequencer_fifo, afterDeserializer_of_rxAffecting rfl, afterIngress_fifo_rd]
  case tx => exact afterSequencer_tx s rxResetWrite
  case err => rw [runCycle_rxResetWrite_regs]
  case status => rw [runCycle_rxResetWrite_regs, cycleEvents_bits_of_rxAffecting rfl rfl rfl hI2]
  case sqr =>
    rw [hsqr, quietCycle_sqr, afterSequencer_none]
    exact seqStep_sqr_congr hq (by simp) _
  case await => rw [hsqr, seqStep_sqr_of_await hq (by simpa using hp) (by simp)]

end Sys2Proof.Machine

namespace Sys2Proof.Machine

open Sys2Proof

/-! ### Commands that leave the cycle as it is -/

/-- A command that is not RX-affecting and has no effect is the cycle with no host write (10_state.md R46). -/
theorem runCycle_cmd_of_no_effect {s : State} {c : Instr} {effect : State → State → State}
    (hr : rxAffecting s (.cmd c effect) = false) (he : ∀ t, effect s t = t) :
    runCycle s (.cmd c effect) = quietCycle s := by
  rw [runCycle_cmd, cycleEvents_cmd_of_not_rxAffecting hr,
    afterSequencer_of_not_rxAffecting hr (abortsAwait_of_not_rxAffecting hr), he]
  rfl

theorem exec_nop (s : State) : exec .nop s = .next (quietCycle s) :=
  congrArg Host.Outcome.next (runCycle_cmd_of_no_effect rfl fun _ => rfl)

theorem step_of_command {s : State} {b : Byte} (hr : s.input.rst = false) (hf : fetchCommand s.input = some b) :
    step s = exec (decodeByte b) s := by simp [step, hr, hf]

/-- Settles O20: NOP has no check, no effect and lets the deserializer pop. -/
theorem nopIsACycleWithoutWrite : Obligations.NopIsACycleWithoutWrite := by
  refine ⟨rfl, fun s => ⟨exec_nop s, fun hr hw ha hd => ?_, step_of_no_write⟩⟩
  have hf : fetchCommand s.input = some 0x00#8 := by simp [fetchCommand, hw, ha, hd]
  exact (step_of_command hr hf).trans (exec_nop s)

/-! ### Accepted commands whose cycle is the ingress and their effect -/

/-- A command's cycle in which phases 3 and 4 do nothing, and whose effect writes no register, is the ingress and the
effect alone: no event occurs (10_state.md R46, R47). -/
theorem runCycle_cmd_of_ingress {s : State} {c : Instr} {effect : State → State → State}
    (hd : afterDeserializer s (.cmd c effect) = afterIngress s)
    (hv : afterSequencer s (.cmd c effect) = afterIngress s)
    (he : (effect s (afterIngress s)).regs = (afterIngress s).regs) :
    runCycle s (.cmd c effect) = (effect s (afterIngress s)).tick := by
  have hbits : (cycleEvents s (.cmd c effect)).bits = 0#5 :=
    cycleEvents_bits_of_quiet (by rw [hd, afterIngress_rx]) (by rw [hv, afterIngress_sqr]) rfl
  have hregs : (effect s (afterIngress s)).regs = s.regs := by rw [he, afterIngress_regs]
  rw [runCycle_cmd, hv, updateStatus, nextStatus_of_quiet rfl hbits, nextErr_cmd, hregs, ← hregs]

/-- While not BUSY an accepted RX-affecting command is the ingress and its effect (10_state.md R44, R49). -/
theorem runCycle_cmd_of_not_busy {s : State} {c : Instr} {effect : State → State → State} (hb : s.busy = false)
    (hr : rxAffecting s (.cmd c effect) = true)
    (he : (effect s (afterIngress s)).regs = (afterIngress s).regs) :
    runCycle s (.cmd c effect) = (effect s (afterIngress s)).tick :=
  have hd := afterDeserializer_of_rxAffecting hr
  runCycle_cmd_of_ingress hd ((afterSequencer_of_not_busy hb _).trans hd) he

/-- What the ingress-and-effect cycle of a command keeps, for an effect on the packets, the FIFO's read side and the
sequencer. -/
theorem tick_of_ingress_frame {s t : State} (hp : t.params = (afterIngress s).params)
    (hi : t.inputs = (afterIngress s).inputs) (hc : t.cycle = (afterIngress s).cycle)
    (hw : t.fifo.wr = (afterIngress s).fifo.wr) (hm : t.fifo.mem = (afterIngress s).fifo.mem) :
    ingressOnly s t.tick ∧ clockAdvanced s t.tick :=
  ⟨ingressOnly_congr hw hm (afterIngress_ingressOnly s), by simp [clockAdvanced, hp, hi, hc]⟩

/-! ### The send commands -/

/-- The state after an accepted send command (43_controller.md R220). -/
def sendingCycle (mode : Bool) (p : TxPacket) (s : State) : State := (startSending mode p (afterIngress s)).tick

theorem runCycle_startSending {s : State} (hb : s.busy = false) {c : Instr} {mode : Bool} {packet : State → TxPacket}
    (hr : rxAffecting s (.cmd c fun s t => startSending mode (packet s) t) = true) :
    runCycle s (.cmd c fun s t => startSending mode (packet s) t) = sendingCycle mode (packet s) s :=
  runCycle_cmd_of_not_busy hb hr rfl

/-- A send command starts at the first frame byte with an empty FIFO, and keeps the receive unit and every register
(43_controller.md R220; 44_circular_buffer.md R257). -/
theorem sendingCycle_frame (mode : Bool) (p : TxPacket) (s : State) :
    let t := sendingCycle mode p s
    t.sqr = { s.sqr with seq := .sending, txIdx := 0#9, mode := mode } ∧ t.rx = s.rx ∧ t.regs = s.regs ∧
      t.fifo.rd = t.fifo.wr ∧ t.fifoCount = 0 ∧ ingressOnly s t ∧ clockAdvanced s t := by
  refine ⟨?_, afterIngress_rx s, afterIngress_regs s, rfl, Fifo.count_of_empty rfl,
    tick_of_ingress_frame rfl rfl rfl rfl rfl⟩
  rw [← afterIngress_sqr s]
  rfl

theorem exec_send_of_accepted {s : State} (hb : s.busy = false) (hl : txLenCheck s = none) :
    exec .send s = .next (sendingCycle false s.tx.sealed s) :=
  congrArg Host.Outcome.next ((commandCycle_accepted_of_not_busy hb hl _ _).trans (runCycle_startSending hb rfl))

theorem exec_transact_of_accepted {s : State} (hb : s.busy = false) (hl : txLenCheck s = none) :
    exec .transact s = .next (sendingCycle true s.tx.sealed s) :=
  congrArg Host.Outcome.next ((commandCycle_accepted_of_not_busy hb hl _ _).trans (runCycle_startSending hb rfl))

theorem exec_readReg_of_accepted {s : State} (hb : s.busy = false) (hc : countCheck s = none) :
    exec .readReg s = .next (sendingCycle true (readPacket s) s) :=
  congrArg Host.Outcome.next ((commandCycle_accepted_of_not_busy hb hc _ _).trans (runCycle_startSending hb rfl))

theorem exec_writeReg8_of_accepted {s : State} (hb : s.busy = false) :
    exec .writeReg8 s = .next (sendingCycle false (write8Packet s) s) :=
  congrArg Host.Outcome.next
    ((commandCycle_accepted (firstFailure_busyCheck hb)).trans (runCycle_startSending hb rfl))

theorem exec_writeReg16_of_accepted {s : State} (hb : s.busy = false) :
    exec .writeReg16 s = .next (sendingCycle false (write16Packet s) s) :=
  congrArg Host.Outcome.next
    ((commandCycle_accepted (firstFailure_busyCheck hb)).trans (runCycle_startSending hb rfl))

/-- Settles O27: both are the send cycle of the sealed packet, each with its MODE. -/
theorem sendAndTransactAccepted : Obligations.SendAndTransactAccepted := by
  intro s hb hlo hhi
  have hl : txLenCheck s = none := txLenCheck_eq_none.mpr ⟨hlo, hhi⟩
  simp only [List.forall_mem_cons]
  exact ⟨⟨_, exec_send_of_accepted hb hl, rfl, sendingCycle_frame _ _ s⟩,
    ⟨_, exec_transact_of_accepted hb hl, rfl, sendingCycle_frame _ _ s⟩, List.forall_mem_nil _⟩

/-- Settles O30: each is the send cycle of the packet its builder command makes. -/
theorem compositeCommandsAccepted : Obligations.CompositeCommandsAccepted := by
  intro s hb
  dsimp only
  refine ⟨fun hcount => ?readReg, ?writeReg8, ?writeReg16⟩
  case readReg =>
    obtain ⟨hsqr, hrx, hregs, hrd, hempty, hingress, hclock⟩ := sendingCycle_frame true (readPacket s) s
    obtain ⟨h0, h1, hrest⟩ := Memory.read_write_zero_one s.tx.pay s.regs.arg0 s.regs.arg1
    exact ⟨_, exec_readReg_of_accepted hb (countCheck_eq_none.mpr hcount),
      ⟨rfl, hsqr, hrx, hregs, hrd, hempty, hingress, hclock, h0, h1, fun i hi => hrest i (by omega)⟩,
      rfl, rfl, hrest 2 le_rfl, readPacket_cs s⟩
  case writeReg8 =>
    obtain ⟨hsqr, hrx, hregs, hrd, hempty, hingress, hclock⟩ := sendingCycle_frame false (write8Packet s) s
    obtain ⟨h0, h1, hrest⟩ := Memory.read_write_zero_one s.tx.pay s.regs.arg0 s.regs.arg1
    exact ⟨_, exec_writeReg8_of_accepted hb,
      ⟨rfl, hsqr, hrx, hregs, hrd, hempty, hingress, hclock, h0, h1, fun i hi => hrest i (by omega)⟩,
      rfl, rfl, hrest 2 le_rfl, write8Packet_cs s⟩
  case writeReg16 =>
    obtain ⟨hsqr, hrx, hregs, hrd, hempty, hingress, hclock⟩ := sendingCycle_frame false (write16Packet s) s
    obtain ⟨h0, h1, h2, hrest⟩ := Memory.read_write_zero_one_two s.tx.pay s.regs.arg0 s.regs.arg1 s.regs.arg2
    rw [← write16Packet_pay] at h0 h1 h2 hrest
    exact ⟨_, exec_writeReg16_of_accepted hb,
      ⟨rfl, hsqr, hrx, hregs, hrd, hempty, hingress, hclock, h0, h1, hrest⟩,
      rfl, rfl, h2, write16Packet_cs s⟩

/-! ### RECEIVE and ABORT -/

theorem exec_receive_of_accepted {s : State} (hb : s.busy = false) :
    exec .receive s = .next (startReceiving (afterIngress s)).tick :=
  congrArg Host.Outcome.next
    ((commandCycle_accepted (firstFailure_busyCheck hb)).trans (runCycle_cmd_of_not_busy hb rfl rfl))

/-- Settles O28: the ingress, then a fresh deserializer and a fresh wait. -/
theorem receiveAccepted : Obligations.ReceiveAccepted := by
  intro s hb
  refine ⟨_, exec_receive_of_accepted hb, ?sqr, ?rx, afterIngress_tx s, afterIngress_regs s, afterIngress_fifo_rd s,
    tick_of_ingress_frame rfl rfl rfl rfl rfl⟩
  case sqr => rw [← afterIngress_sqr s]; rfl
  case rx => rw [← afterIngress_rx s]; rfl

/-- ABORT of a response wait suppresses phases 3 and 4, so neither a completion nor a timeout of its cycle happens
(43_controller.md R223; 60_exceptions.md R277). -/
theorem exec_abort_of_await {s : State} (hq : s.sqr.seq = .await) :
    exec .abort s = .next (abortEffect s (afterIngress s)).tick := by
  have ha : abortsAwait s (.cmd .abort abortEffect) = true := decide_eq_true hq
  have hd : afterDeserializer s (.cmd .abort abortEffect) = afterIngress s := afterDeserializer_of_rxAffecting ha
  refine congrArg Host.Outcome.next (runCycle_cmd_of_ingress hd ?_ ?_)
  · rw [afterSequencer, if_pos ha, hd]
  · rw [abortEffect_of_await hq]

theorem exec_abort_of_not_await {s : State} (hq : s.sqr.seq ≠ .await) : exec .abort s = .next (quietCycle s) :=
  congrArg Host.Outcome.next
    (runCycle_cmd_of_no_effect (decide_eq_false hq) fun t => abortEffect_of_not_await hq t)

/-- Settles O29: in AWAIT the ingress and the effect are the whole cycle; elsewhere there is no effect. -/
theorem abortCommand : Obligations.AbortCommand := by
  intro s
  refine ⟨fun hq => ⟨_, exec_abort_of_await hq, ?_⟩, exec_abort_of_not_await⟩
  rw [abortEffect_of_await hq]
  refine ⟨?sqr, ?rx, afterIngress_tx s, afterIngress_regs s, afterIngress_fifo_rd s,
    tick_of_ingress_frame rfl rfl rfl rfl rfl⟩
  case sqr => rw [← afterIngress_sqr s]; rfl
  case rx => rw [← afterIngress_rx s]; rfl

end Sys2Proof.Machine

namespace Sys2Proof.Machine

open Sys2Proof

/-! ### The sequencer's step, by its state -/

/-- TX_IDX is at the checksum byte, the last one of the frame; neither side of the comparison wraps (43_controller.md
R230). -/
theorem txIdx_last_iff (i : BitVec 9) (len : Byte) :
    i + 1#9 = len.zeroExtend 9 + 4#9 ↔ i.toNat = len.toNat + 3 := by
  have hlen : (len.zeroExtend 9).toNat = len.toNat := by simp; omega
  constructor <;> intro h <;> bv_omega

theorem seqStep_sqr_of_sending {s t : State} (hs : s.sqr.seq = .sending) (ht : t.sqr = s.sqr) (txReady : Bool) :
    (seqStep s t txReady).sqr =
      if txReady then
        if s.sqr.txIdx.toNat = s.tx.len.toNat + 3 then
          { s.sqr with txIdx := s.sqr.txIdx + 1#9, seq := .guard, gcnt := 0#32 }
        else { s.sqr with txIdx := s.sqr.txIdx + 1#9 }
      else s.sqr := by
  simp only [seqStep, hs, sendStep, txIdx_last_iff]
  (repeat' split) <;> simp only [ht, hs]

theorem seqStep_sqr_of_guard {s t : State} (hs : s.sqr.seq = .guard) (ht : t.sqr = s.sqr) (txReady : Bool) :
    (seqStep s t txReady).sqr =
      if s.sqr.gcnt = s.regs.guard then
        if s.sqr.mode then { s.sqr with seq := .await, tmr := 0#32 } else { s.sqr with seq := .idle }
      else { s.sqr with gcnt := s.sqr.gcnt + 1#32 } := by
  simp only [seqStep, hs, guardStep]
  (repeat' split) <;> simp only [ht, hs]

/-- A completion wins over the timeout (43_controller.md R232). -/
theorem seqStep_sqr_of_await_ready {s t : State} (hs : s.sqr.seq = .await) (hp : t.rx.phase = .ready)
    (ht : t.sqr = s.sqr) (txReady : Bool) : (seqStep s t txReady).sqr = { s.sqr with seq := .complete } := by
  simp [seqStep, hs, awaitStep, hp, ht]

/-! ### A BUSY cycle that no ABORT ends -/

theorem busy_iff (s : State) :
    s.busy = true ↔ s.sqr.seq = .sending ∨ s.sqr.seq = .guard ∨ s.sqr.seq = .await := by
  unfold State.busy; cases s.sqr.seq <;> simp

/-- Only the byte 0x0A on CMD aborts a response wait (30_encoding.md R110; 43_controller.md R223). -/
theorem abortsAwait_of_no_abort {s : State} {h : HostWrite} (hw : IsHostWrite s h)
    (hf : s.sqr.seq = .await → fetchCommand s.input ≠ some 0x0A#8) : abortsAwait s h = false := by
  cases hw with
  | abort hc => exact decide_eq_false fun hq => hf hq hc
  | _ => rfl

/-- In a BUSY cycle without an ABORT of a response wait the sequencer moves by its own step, whatever the host does
(10_state.md R45; 60_exceptions.md R275). -/
theorem step_of_busy {s : State} (hr : s.input.rst = false) (hb : s.busy = true)
    (hf : s.sqr.seq = .await → fetchCommand s.input ≠ some 0x0A#8) :
    ∃ h, IsHostWrite s h ∧ step s = .next (runCycle s h) ∧
      afterSequencer s h = seqStep s (afterDeserializer s h) s.input.txReady ∧
      (runCycle s h).sqr = (seqStep s (afterDeserializer s h) s.input.txReady).sqr := by
  obtain ⟨h, hw, he, -⟩ := step_eq_runCycle hr
  have ha := abortsAwait_of_no_abort hw hf
  obtain ⟨-, -, -, hsqr⟩ := runCycle_of_busy hw hb
  exact ⟨h, hw, he, by simp [afterSequencer, ha], hsqr ha⟩

/-- Where the sequencer resets the deserializer, phase 5 leaves it reset. -/
theorem runCycle_rx_of_resets {s : State} {h : HostWrite} (hw : IsHostWrite s h)
    (hv : afterSequencer s h = seqStep s (afterDeserializer s h) s.input.txReady)
    (hreset : sequencerResetsRx s (afterDeserializer s h).rx) :
    (runCycle s h).rx.phase = .header1 ∧ (runCycle s h).rx.pos = 0#8 := by
  have hrx : (afterSequencer s h).rx = (afterDeserializer s h).rx.reset := by
    rw [hv, seqStep_rx_of_resets hreset]
  rcases runCycle_rx hw with e | e <;> simp [e, hrx]

/-- The STATUS bits that the moves of a step set, told from its two states (20_memory.md R66). -/
theorem step_sets_status {s t : State} (hr : s.input.rst = false) (ht : step s = .next t) :
    (s.sqr.seq ≠ .complete → t.sqr.seq = .complete → t.regs.status.getLsbD 0 = true) ∧
    (s.sqr.seq ≠ .timedOut → t.sqr.seq = .timedOut → t.regs.status.getLsbD 1 = true) ∧
    (s.sqr.seq = .guard → t.sqr.seq ≠ .guard → t.regs.status.getLsbD 2 = true) ∧
    (s.sqr.seq ≠ .guard → s.rx.phase ≠ .ready → t.rx.phase = .ready → t.regs.status.getLsbD 3 = true) := by
  obtain ⟨-, -, -, htwoStates⟩ := eventsSetStatusBits
  obtain ⟨hdone, htimeout, htxDone, hrxRdy⟩ := htwoStates s t hr ht
  exact ⟨fun h h' => hdone.mpr (.inr ⟨h, h'⟩), fun h h' => htimeout.mpr (.inr ⟨h, h'⟩),
    fun h h' => htxDone.mpr (.inr ⟨h, h'⟩),
    fun hg h h' => (hrxRdy fun hq => absurd hq hg).mpr (.inr ⟨h, h'⟩)⟩

theorem txData_of_sending {s : State} (hs : s.sqr.seq = .sending) : txData s = s.tx.frameByte s.sqr.txIdx.toNat :=
  if_pos hs

/-- Settles O34: the serializer's part of the sequencer's step, on a TX packet that no host write changes. -/
theorem sendingStep : Obligations.SendingStep := by
  intro s hs
  have hb := (busy_iff s).mpr (.inl hs)
  have hvalid := (txValid_iff s).mpr hs
  refine ⟨hvalid, txData_of_sending hs, fun hr => ?_⟩
  obtain ⟨h, hw, he, -, hsqr⟩ := step_of_busy hr hb (by simp [hs])
  obtain ⟨htx, -, -, -⟩ := runCycle_of_busy hw hb
  rw [seqStep_sqr_of_sending hs (afterDeserializer_sqr s h)] at hsqr
  refine ⟨_, he, fun hready => ?stalled, fun hready => ?taken⟩
  case stalled =>
    rw [hready, if_neg Bool.false_ne_true] at hsqr
    have ht : (runCycle s h).sqr.seq = .sending := by rw [hsqr, hs]
    refine ⟨by simp [handshake, hready], hsqr, (txValid_iff _).mpr ht, ?_⟩
    rw [txData_of_sending ht, txData_of_sending hs, hsqr, htx]
  case taken =>
    rw [hready, if_pos rfl] at hsqr
    refine ⟨by simp [handshake, hready, hvalid, txData_of_sending hs], fun hlast => ?_, fun hmore => ?_⟩
    · rw [hsqr, if_pos hlast]
    · rw [hsqr, if_neg hmore]

/-- Settles O35: the guard counter's part of the sequencer's step. -/
theorem Sequencer.guardStep : Obligations.GuardStep := by
  intro s hr hs
  obtain ⟨h, hw, he, hv, hsqr⟩ := step_of_busy hr ((busy_iff s).mpr (.inr (.inl hs))) (by simp [hs])
  obtain ⟨-, -, htxDone, -⟩ := step_sets_status hr he
  rw [seqStep_sqr_of_guard hs (afterDeserializer_sqr s h)] at hsqr
  refine ⟨_, he, (rxEn_eq_false_iff s).mpr (.inr hs), fun hcount => ?counting, fun hend => ?ended⟩
  case counting => rw [hsqr, if_neg hcount]
  case ended =>
    rw [if_pos hend] at hsqr
    refine ⟨htxDone hs ?_, fun hm => ?idle, fun hm => ⟨?await, runCycle_rx_of_resets hw hv (.inl ⟨hs, hend, hm⟩)⟩⟩
    · rw [hsqr]; split <;> simp
    case idle => simp [hsqr, hm]
    case await => simp [hsqr, hm]

/-- Settles O36: entering READY is the same move in the cycle's two states and in its phase 3, where the sequencer sees
it. -/
theorem Sequencer.awaitStep : Obligations.AwaitStep := by
  intro s hr hs hI2 hf
  obtain ⟨h, hw, he, hv, hsqr⟩ := step_of_busy hr ((busy_iff s).mpr (.inr (.inr hs))) fun _ => hf
  obtain ⟨hdone, htimeout, -, hrxRdy⟩ := step_sets_status hr he
  have hready : (afterDeserializer s h).rx.phase = .ready ↔ (runCycle s h).rx.phase = .ready := by
    simpa [hI2] using enters_ready_iff hw (by simp [hs])
  have hu := afterDeserializer_sqr s h
  refine ⟨_, he, fun ht => ?complete, fun ht htmr => ?timedOut, fun ht htmr => ?counting⟩
  case complete =>
    rw [seqStep_sqr_of_await_ready hs (hready.mpr ht) hu] at hsqr
    exact ⟨hsqr, hdone (by simp [hs]) (by rw [hsqr]), hrxRdy (by simp [hs]) hI2 ht⟩
  case timedOut =>
    have hp := mt hready.mp ht
    rw [seqStep_sqr_of_await hs hp hu, if_pos htmr] at hsqr
    exact ⟨hsqr, htimeout (by simp [hs]) (by rw [hsqr]), runCycle_rx_of_resets hw hv (.inr ⟨hs, hp, htmr⟩)⟩
  case counting => rw [hsqr, seqStep_sqr_of_await hs (mt hready.mp ht) hu, if_neg htmr]

/-! ### Every transition of SEQ -/

/-- The command bytes that start SENDING: SEND, TRANSACT, READ_REG, WRITE_REG8, WRITE_REG16 (30_encoding.md R110). -/
def sendCommandBytes : List (Option Byte) := [some 0x07#8, some 0x08#8, some 0x0B#8, some 0x0C#8, some 0x0D#8]

/-- While not BUSY SEQ moves only by a send command or by RECEIVE (43_controller.md R233). -/
theorem runCycle_seq_of_not_busy {s : State} {h : HostWrite} (hw : IsHostWrite s h) (hb : s.busy = false) :
    (runCycle s h).sqr.seq = s.sqr.seq ∨
    ((runCycle s h).sqr.seq = .sending ∧ fetchCommand s.input ∈ sendCommandBytes) ∨
    ((runCycle s h).sqr.seq = .await ∧ fetchCommand s.input = some 0x09#8) := by
  have hv : (afterSequencer s h).sqr.seq = s.sqr.seq := by simp [afterSequencer_of_not_busy hb]
  cases hw with
  | send hf | transact hf | readReg hf | writeReg8 hf | writeReg16 hf =>
    exact .inr (.inl ⟨rfl, by simp [hf, sendCommandBytes]⟩)
  | receive hf => exact .inr (.inr ⟨rfl, hf⟩)
  | abort =>
    have hq : s.sqr.seq ≠ .await := fun hq => by simp [State.busy, hq] at hb
    left; simpa [runCycle, afterHost, abortEffect_of_not_await hq] using hv
  | store r v => left; simpa [runCycle, afterHost, Reg.store_frame] using hv
  | _ => exact .inl hv

/-- SENDING is left when the last byte is taken, and no other way (43_controller.md R230). -/
theorem step_seq_of_sending {s t : State} (hr : s.input.rst = false) (hs : s.sqr.seq = .sending)
    (hst : step s = .next t) :
    t.sqr.seq = s.sqr.seq ∨
    (t.sqr.seq = .guard ∧ s.input.txReady = true ∧ s.sqr.txIdx.toNat = s.tx.len.toNat + 3) := by
  obtain ⟨-, -, hcycle⟩ := sendingStep s hs
  obtain ⟨t', ht', hstalled, htaken⟩ := hcycle hr
  obtain rfl : t' = t := Host.Outcome.next.inj (ht'.symm.trans hst)
  cases hready : s.input.txReady with
  | false =>
    obtain ⟨-, hsqr, -⟩ := hstalled hready
    exact .inl (by rw [hsqr])
  | true =>
    obtain ⟨-, hlast, hmore⟩ := htaken hready
    by_cases hidx : s.sqr.txIdx.toNat = s.tx.len.toNat + 3
    · exact .inr ⟨by rw [hlast hidx], rfl, hidx⟩
    · exact .inl (by rw [hmore hidx])

/-- GUARD is left when GCNT has reached GUARD, to the state that MODE names (43_controller.md R231). -/
theorem step_seq_of_guard {s t : State} (hr : s.input.rst = false) (hs : s.sqr.seq = .guard)
    (hst : step s = .next t) :
    t.sqr.seq = s.sqr.seq ∨
    (t.sqr.seq = .idle ∧ s.sqr.gcnt = s.regs.guard ∧ s.sqr.mode = false) ∨
    (t.sqr.seq = .await ∧ s.sqr.gcnt = s.regs.guard ∧ s.sqr.mode = true) := by
  obtain ⟨t', ht', -, hcount, hend⟩ := Sequencer.guardStep s hr hs
  obtain rfl : t' = t := Host.Outcome.next.inj (ht'.symm.trans hst)
  by_cases hg : s.sqr.gcnt = s.regs.guard
  · obtain ⟨-, hidle, hawait⟩ := hend hg
    cases hm : s.sqr.mode with
    | false => exact .inr (.inl ⟨by rw [hidle hm], hg, rfl⟩)
    | true =>
      obtain ⟨hsqr, -⟩ := hawait hm
      exact .inr (.inr ⟨by rw [hsqr], hg, rfl⟩)
  · exact .inl (by rw [hcount hg])

/-- AWAIT is left by an ABORT, a completion or a timeout (43_controller.md R223, R232). -/
theorem step_seq_of_await {s t : State} (hr : s.input.rst = false) (hs : s.sqr.seq = .await)
    (hI2 : s.rx.phase ≠ .ready) (hst : step s = .next t) :
    t.sqr.seq = s.sqr.seq ∨ (t.sqr.seq = .complete ∧ t.rx.phase = .ready) ∨
    (t.sqr.seq = .timedOut ∧ s.sqr.tmr = s.regs.timeout ∧ t.rx.phase ≠ .ready) ∨
    (t.sqr.seq = .idle ∧ fetchCommand s.input = some 0x0A#8) := by
  by_cases hf : fetchCommand s.input = some 0x0A#8
  · obtain ⟨habort, -⟩ := abortCommand s
    obtain ⟨t', ht', hsqr, -⟩ := habort hs
    have ht'' : step s = .next t' := (step_of_command hr hf).trans ht'
    obtain rfl : t' = t := Host.Outcome.next.inj (ht''.symm.trans hst)
    exact .inr (.inr (.inr ⟨by rw [hsqr], hf⟩))
  · obtain ⟨t', ht', hcomplete, htimedOut, hcount⟩ := Sequencer.awaitStep s hr hs hI2 hf
    obtain rfl : t' = t := Host.Outcome.next.inj (ht'.symm.trans hst)
    by_cases hp : t'.rx.phase = .ready
    · obtain ⟨hsqr, -⟩ := hcomplete hp
      exact .inr (.inl ⟨by rw [hsqr], hp⟩)
    · by_cases htmr : s.sqr.tmr = s.regs.timeout
      · obtain ⟨hsqr, -⟩ := htimedOut hp htmr
        exact .inr (.inr (.inl ⟨by rw [hsqr], htmr, hp⟩))
      · exact .inl (by rw [hcount hp htmr])

/-- Settles O37, by the state a step begins in. -/
theorem sequencerTransitionsAreAll : Obligations.SequencerTransitionsAreAll := by
  intro s t hI2 hst
  dsimp only
  rcases step_cases hst with ⟨hr, rfl⟩ | ⟨hr, w, hw, ht⟩
  · exact .inl ⟨hr, rfl⟩
  refine .inr ⟨hr, ?_⟩
  cases hb : s.busy with
  | false =>
    have hmoves := runCycle_seq_of_not_busy hw hb
    rw [← ht] at hmoves
    rcases hmoves with hq | ⟨hq, hf⟩ | ⟨hq, hf⟩
    · exact .inl hq
    · exact .inr (.inl ⟨rfl, hq, hf⟩)
    · exact .inr (.inr (.inl ⟨rfl, hq, hf⟩))
  | true =>
    rcases (busy_iff s).mp hb with hs | hs | hs
    · rcases step_seq_of_sending hr hs hst with hq | ⟨hq, hready, hidx⟩
      · exact .inl hq
      · simp [hs, hq, hready, hidx]
    · rcases step_seq_of_guard hr hs hst with hq | ⟨hq, hg, hm⟩ | ⟨hq, hg, hm⟩
      · exact .inl hq
      · simp [hs, hq, hg, hm]
      · simp [hs, hq, hg, hm]
    · rcases step_seq_of_await hr hs (hI2 hs) hst with hq | ⟨hq, hp⟩ | ⟨hq, htmr, hp⟩ | ⟨hq, hf⟩
      · exact .inl hq
      · simp [hs, hq, hp]
      · simp [hs, hq, htmr, hp]
      · simp [hs, hq, hf]

end Sys2Proof.Machine

namespace Sys2Proof.Machine

open Sys2Proof

/-! ### Runs of a BUSY sequencer -/

/-- A property of the state and its cycle number that holds at the start and that the next cycles keep holds along the
run. -/
theorem stateAfter_induction {P : Nat → State → Prop} {n : Nat} {s : State} (h0 : P 0 s)
    (hstep : ∀ k < n, P k (stateAfter k s) → ∃ t, step (stateAfter k s) = .next t ∧ P (k + 1) t) :
    ∀ k ≤ n, P k (stateAfter k s)
  | 0, _ => h0
  | k + 1, hk => by
    obtain ⟨t, ht, hP⟩ := hstep k hk (stateAfter_induction h0 hstep k (by omega))
    rwa [stateAfter_succ_of_step ht]

/-- While BUSY a step keeps the TX packet, TIMEOUT and GUARD (20_memory.md R64, R85). -/
theorem step_frozen_of_busy {s t : State} (hr : s.input.rst = false) (hb : s.busy = true) (hst : step s = .next t) :
    t.tx = s.tx ∧ t.regs.timeout = s.regs.timeout ∧ t.regs.guard = s.regs.guard := by
  obtain ⟨t', ht', hkept⟩ := txPacketFrozenWhileBusy s hr hb
  obtain rfl : t' = t := Host.Outcome.next.inj (ht'.symm.trans hst)
  exact hkept

/-- A 32-bit count below its bound has not reached it. -/
theorem ofNat_ne_of_lt_toNat {k : Nat} {w : Word32} (h : k < w.toNat) : BitVec.ofNat 32 k ≠ w := by
  bv_omega

/-! ### The guard interval -/

/-- The guard interval of `s` after `k` of its cycles: GCNT has counted them, GUARD is frozen. -/
def GuardCounted (s : State) (k : Nat) (u : State) : Prop :=
  u.sqr = { s.sqr with gcnt := BitVec.ofNat 32 k } ∧ u.regs.guard = s.regs.guard

theorem GuardCounted.seq {s u : State} {k : Nat} (h : GuardCounted s k u) (hs : s.sqr.seq = .guard) :
    u.sqr.seq = .guard := by
  obtain ⟨hsqr, -⟩ := h
  rw [hsqr, hs]

theorem GuardCounted.step {s u : State} {k : Nat} (h : GuardCounted s k u) (hs : s.sqr.seq = .guard)
    (hr : u.input.rst = false) (hk : k < s.regs.guard.toNat) : ∃ t, step u = .next t ∧ GuardCounted s (k + 1) t := by
  have hq := h.seq hs
  obtain ⟨hsqr, hguard⟩ := h
  obtain ⟨t, ht, -, hcount, -⟩ := Sequencer.guardStep u hr hq
  obtain ⟨-, -, hkept⟩ := step_frozen_of_busy hr ((busy_iff u).mpr (.inr (.inl hq))) ht
  refine ⟨t, ht, ?_, hkept.trans hguard⟩
  rw [hcount (by rw [hsqr, hguard]; exact ofNat_ne_of_lt_toNat hk), hsqr, BitVec.ofNat_add]

/-- Settles O40, by induction on the guard interval's cycles: GCNT equals the number of them, so it reaches the frozen
GUARD after GUARD cycles, and the next one ends the interval. -/
theorem guardLastsGuardPlusOneCycles : Obligations.GuardLastsGuardPlusOneCycles := by
  intro s hs hgcnt hreset
  have hcounted : ∀ k ≤ s.regs.guard.toNat, GuardCounted s k (stateAfter k s) :=
    stateAfter_induction ⟨by rw [← hgcnt], rfl⟩ fun k hk h => h.step hs (hreset k (by omega)) hk
  refine ⟨fun k hk => ?_, ?_⟩
  · have hq := (hcounted k hk).seq hs
    exact ⟨hq, (rxEn_eq_false_iff _).mpr (.inr hq)⟩
  · have hlast := hcounted _ le_rfl
    have hq := hlast.seq hs
    obtain ⟨hsqr, hguard⟩ := hlast
    obtain ⟨t, ht, -, -, hend⟩ := Sequencer.guardStep _ (hreset _ (Nat.lt_succ_self _)) hq
    obtain ⟨htxDone, hidle, hawait⟩ := hend (by simp [hsqr, hguard])
    rw [stateAfter_succ_of_step ht]
    refine ⟨?_, htxDone⟩
    rw [hsqr] at hidle hawait
    cases hm : s.sqr.mode with
    | false => simp [hidle hm]
    | true => simp [hawait hm]

/-! ### A response wait on a silent line -/

/-- With no byte arriving an empty FIFO stays empty (10_state.md R43, R44). -/
theorem runCycle_fifoCount_of_silent {s : State} {h : HostWrite} (hw : IsHostWrite s h) (hc : s.fifoCount = 0)
    (hv : s.input.rxValid = false) : (runCycle s h).fifoCount = 0 := by
  have hu : (afterDeserializer s h).fifo = s.fifo := by
    simp [afterDeserializer, pops_of_empty hc, afterIngress_fifo, hv]
  rw [State.fifoCount, (runCycle_clock hw).1]
  rcases runCycle_fifo hw with e | e <;> rw [e, hu]
  · exact hc
  · exact Fifo.count_flush _ _

/-- With an empty FIFO no cycle enters READY (10_state.md R44). -/
theorem runCycle_not_ready_of_empty {s : State} {h : HostWrite} (hw : IsHostWrite s h) (hc : s.fifoCount = 0)
    (hp : s.rx.phase ≠ .ready) : (runCycle s h).rx.phase ≠ .ready := by
  intro ht
  obtain ⟨-, hu⟩ := (enters_ready_iff hw fun _ => hc).mpr ⟨hp, ht⟩
  obtain ⟨-, hne⟩ := pops_of_enters_ready hp hu
  exact hne hc

/-- The response wait of `s` after `k` silent cycles: TMR has counted them, TIMEOUT is frozen and nothing is there to
receive. -/
structure WaitCounted (s : State) (k : Nat) (u : State) : Prop where
  sqr : u.sqr = { s.sqr with tmr := BitVec.ofNat 32 k }
  timeout : u.regs.timeout = s.regs.timeout
  empty : u.fifoCount = 0
  notReady : u.rx.phase ≠ .ready

theorem WaitCounted.seq {s u : State} {k : Nat} (h : WaitCounted s k u) (hs : s.sqr.seq = .await) :
    u.sqr.seq = .await := by rw [h.sqr, hs]

theorem WaitCounted.step {s u : State} {k : Nat} (h : WaitCounted s k u) (hs : s.sqr.seq = .await)
    (hr : u.input.rst = false) (hv : u.input.rxValid = false) (hf : fetchCommand u.input ≠ some 0x0A#8)
    (hk : k < s.regs.timeout.toNat) : ∃ t, step u = .next t ∧ WaitCounted s (k + 1) t := by
  have hq := h.seq hs
  obtain ⟨w, hw, ht, -⟩ := step_eq_runCycle hr
  obtain ⟨-, htimeout, -⟩ := step_frozen_of_busy hr ((busy_iff u).mpr (.inr (.inr hq))) ht
  have hp := runCycle_not_ready_of_empty hw h.empty h.notReady
  obtain ⟨t', ht', -, -, hcount⟩ := Sequencer.awaitStep u hr hq h.notReady hf
  obtain rfl : runCycle u w = t' := Host.Outcome.next.inj (ht.symm.trans ht')
  refine ⟨_, ht, ?_, htimeout.trans h.timeout, runCycle_fifoCount_of_silent hw h.empty hv, hp⟩
  rw [hcount hp (by rw [h.sqr, h.timeout]; exact ofNat_ne_of_lt_toNat hk), h.sqr, BitVec.ofNat_add]

/-- Settles O42, by induction on the wait's cycles: TMR equals the number of them, and READY is never reached. -/
theorem silentLineTimesOutExactly : Obligations.SilentLineTimesOutExactly := by
  intro s hs htmr hempty hp hreset hsilent habort
  have hcounted : ∀ k ≤ s.regs.timeout.toNat, WaitCounted s k (stateAfter k s) :=
    stateAfter_induction ⟨by rw [← htmr], rfl, hempty, hp⟩ fun k hk h =>
      h.step hs (hreset k (by omega)) (hsilent k (by omega)) (habort k (by omega)) hk
  refine ⟨fun k hk => ⟨(hcounted k hk).seq hs, ?_⟩, ?_⟩
  · have := s.regs.timeout.isLt
    rw [(hcounted k hk).sqr]
    exact Nat.mod_eq_of_lt (by omega)
  · have hlast := hcounted _ le_rfl
    have hn : s.regs.timeout.toNat < s.regs.timeout.toNat + 1 := Nat.lt_succ_self _
    obtain ⟨w, hw, ht, -⟩ := step_eq_runCycle (hreset _ hn)
    obtain ⟨t', ht', -, htimedOut, -⟩ :=
      Sequencer.awaitStep _ (hreset _ hn) (hlast.seq hs) hlast.notReady (habort _ hn)
    obtain rfl := Host.Outcome.next.inj (ht.symm.trans ht')
    obtain ⟨hsqr, hstatus, -⟩ := htimedOut (runCycle_not_ready_of_empty hw hlast.empty hlast.notReady)
      (by simp [hlast.sqr, hlast.timeout])
    rw [stateAfter_succ_of_step ht]
    exact ⟨by rw [hsqr], hstatus⟩

/-! ### The bytes of a frame on the line -/

theorem TxPacket.frame_length {p : TxPacket} (h : 2 ≤ p.len.toNat) : p.frame.length = p.len.toNat + 4 := by
  simp [TxPacket.frame, frameBytes, Memory.firstBytes]
  omega

/-- The beginning of the frame grows by the byte that TX_IDX points at (30_encoding.md R100, R101). -/
theorem TxPacket.take_frame_succ {p : TxPacket} (h : 2 ≤ p.len.toNat) {k : Nat} (hk : k < p.len.toNat + 4) :
    p.frame.take (k + 1) = p.frame.take k ++ [p.frameByte k] := by
  rw [List.take_add_one, TxPacket.frame_getElem? p h k hk]
  rfl

/-- The transmission of a packet after the PHY has taken the bytes `sent`: they are the beginning of its frame, TX_IDX
counts them while SENDING, and in GUARD they are the frame. -/
def FrameSent (p : TxPacket) (sent : List Byte) (u : State) : Prop :=
  u.tx = p ∧ sent = p.frame.take sent.length ∧
    ((u.sqr.seq = .sending ∧ u.sqr.txIdx.toNat = sent.length ∧ sent.length < p.len.toNat + 4) ∨
      (u.sqr.seq = .guard ∧ sent = p.frame))

/-- A SENDING cycle extends the transmission by the byte it hands over, if any (43_controller.md R230). -/
theorem FrameSent.step {p : TxPacket} {sent : List Byte} {u : State} (h : FrameSent p sent u) (hlen : 2 ≤ p.len.toNat)
    (hs : u.sqr.seq = .sending) (hr : u.input.rst = false) :
    ∃ t, step u = .next t ∧ FrameSent p (sent ++ (handshake u).toList) t := by
  obtain ⟨rfl, hsent, hmove⟩ := h
  obtain ⟨-, hidx, hlt⟩ := hmove.resolve_right fun hg => by simp [hs] at hg
  obtain ⟨-, -, hcycle⟩ := sendingStep u hs
  obtain ⟨t, ht, hstalled, htaken⟩ := hcycle hr
  obtain ⟨htx, -, -⟩ := step_frozen_of_busy hr ((busy_iff u).mpr (.inl hs)) ht
  refine ⟨t, ht, htx, ?_⟩
  cases hready : u.input.txReady with
  | false =>
    obtain ⟨hnone, hsqr, -⟩ := hstalled hready
    rw [hnone, hsqr, Option.toList_none, List.append_nil]
    exact ⟨hsent, .inl ⟨hs, hidx, hlt⟩⟩
  | true =>
    obtain ⟨hsome, hlast, hmore⟩ := htaken hready
    have hbegin : sent ++ [u.tx.frameByte sent.length] = u.tx.frame.take (sent.length + 1) := by
      rw [TxPacket.take_frame_succ hlen hlt, ← hsent]
    rw [hsome, hidx, Option.toList_some, List.length_append, List.length_singleton, hbegin]
    refine ⟨rfl, ?_⟩
    by_cases hend : u.sqr.txIdx.toNat = u.tx.len.toNat + 3
    · refine .inr ⟨by rw [hlast hend], List.take_of_length_le ?_⟩
      rw [TxPacket.frame_length hlen]; omega
    · refine .inl ⟨by rw [hmore hend, hs], ?_, by omega⟩
      have := u.tx.len.isLt
      rw [hmore hend]
      bv_omega

theorem frameSent_of_start {s : State} (hs : s.sqr.seq = .sending) (hidx : s.sqr.txIdx = 0#9) :
    FrameSent s.tx [] s := ⟨rfl, rfl, .inl ⟨hs, by rw [hidx]; rfl, Nat.succ_pos _⟩⟩

/-- Settles O43, by induction on the SENDING cycles: each hands over the next byte of the frame or none. -/
theorem sentBytesAreTheFrame : Obligations.SentBytesAreTheFrame := by
  intro s k hs hidx hlen hreset hsending
  have hrun : ∀ j ≤ k, FrameSent s.tx (sentBytes j s) (stateAfter j s) :=
    stateAfter_induction (frameSent_of_start hs hidx) fun j hj h => by
      rw [sentBytes_succ]
      exact h.step hlen (hsending j hj) (hreset j hj)
  obtain ⟨-, hbegin, hmove⟩ := hrun k le_rfl
  refine ⟨hbegin, fun hq => ?_, fun hq => ?_⟩
  · obtain ⟨-, hcount, -⟩ := hmove.resolve_right fun hg => by simp [hq] at hg
    exact hcount
  · exact hmove.resolve_left fun hg => hq hg.1

/-! ### A frame to a PHY that never stalls -/

/-- The transmission of `s` after `k` cycles without a stall: TX_IDX has counted them, the packet is frozen. -/
def BytesCounted (s : State) (k : Nat) (u : State) : Prop :=
  u.sqr = { s.sqr with txIdx := BitVec.ofNat 9 k } ∧ u.tx = s.tx

theorem BytesCounted.seq {s u : State} {k : Nat} (h : BytesCounted s k u) (hs : s.sqr.seq = .sending) :
    u.sqr.seq = .sending := by
  obtain ⟨hsqr, -⟩ := h
  rw [hsqr, hs]

theorem BytesCounted.txIdx {s u : State} {k : Nat} (h : BytesCounted s k u) (hk : k ≤ s.tx.len.toNat + 3) :
    u.sqr.txIdx.toNat = k := by
  obtain ⟨hsqr, -⟩ := h
  have := s.tx.len.isLt
  rw [hsqr]
  exact Nat.mod_eq_of_lt (by omega)

theorem BytesCounted.step {s u : State} {k : Nat} (h : BytesCounted s k u) (hs : s.sqr.seq = .sending)
    (hr : u.input.rst = false) (hready : u.input.txReady = true) (hk : k < s.tx.len.toNat + 3) :
    ∃ t, step u = .next t ∧ BytesCounted s (k + 1) t := by
  have hq := h.seq hs
  have hidx := h.txIdx hk.le
  obtain ⟨hsqr, htx⟩ := h
  obtain ⟨-, -, hcycle⟩ := sendingStep u hq
  obtain ⟨t, ht, -, htaken⟩ := hcycle hr
  obtain ⟨-, -, hmore⟩ := htaken hready
  obtain ⟨hkept, -, -⟩ := step_frozen_of_busy hr ((busy_iff u).mpr (.inl hq)) ht
  refine ⟨t, ht, ?_, hkept.trans htx⟩
  rw [hmore (by rw [hidx, htx]; exact hk.ne), hsqr, BitVec.ofNat_add]

/-- Settles O44, by induction on the cycles: TX_IDX equals the number of them until the last byte. -/
theorem sendingTakesOneCyclePerByte : Obligations.SendingTakesOneCyclePerByte := by
  intro s hs hidx hreset hready
  have hcounted : ∀ k ≤ s.tx.len.toNat + 3, BytesCounted s k (stateAfter k s) :=
    stateAfter_induction ⟨by rw [← hidx], rfl⟩ fun k hk h =>
      h.step hs (hreset k (by omega)) (hready k (by omega)) hk
  refine ⟨fun j hj => (hcounted j (by omega)).seq hs, ?_⟩
  have hlast := hcounted _ le_rfl
  have hend : (stateAfter (s.tx.len.toNat + 3) s).sqr.txIdx.toNat = s.tx.len.toNat + 3 := hlast.txIdx le_rfl
  obtain ⟨-, -, hcycle⟩ := sendingStep _ (hlast.seq hs)
  obtain ⟨t, ht, -, htaken⟩ := hcycle (hreset _ (Nat.lt_succ_self _))
  obtain ⟨-, hguard, -⟩ := htaken (hready _ (Nat.lt_succ_self _))
  obtain ⟨-, htx⟩ := hlast
  rw [stateAfter_succ_of_step ht, hguard (by rw [htx]; exact hend)]

end Sys2Proof.Machine

namespace Sys2Proof.Machine

open Sys2Proof

/-! ### Count after a push -/

/-- Count as an integer residue, whatever the cursors (44_circular_buffer.md R251). -/
theorem Fifo.count_cast {d : Nat} (hd : 0 < d) (f : Fifo) :
    (f.count d : Int) = ((f.wr : Int) - f.rd) % ((2 * d : Nat) : Int) :=
  Int.toNat_of_nonneg (Int.emod_nonneg _ (by omega))

theorem Fifo.count_lt {d : Nat} (hd : 0 < d) (f : Fifo) : f.count d < 2 * d := by
  have := f.count_le hd
  omega

/-- A push adds one to Count modulo 2*D, full or not (R252, R255). -/
theorem Fifo.count_push {d : Nat} (hd : 0 < d) (f : Fifo) (b : Byte) :
    (f.push d b).count d = (f.count d + 1) % (2 * d) := by
  have hint : ((f.push d b).count d : Int) = ((f.count d + 1) % (2 * d) : Nat) := by
    rw [Fifo.count_cast hd, Fifo.push_wr, Fifo.push_rd, Int.natCast_emod, Int.natCast_emod, Int.emod_sub_emod,
      Nat.cast_succ, Nat.cast_succ, Fifo.count_cast hd, Int.emod_add_emod, add_sub_right_comm]
  exact Int.ofNat_inj.mp hint

/-- In a full FIFO the write slot is the slot of the oldest unread byte (R255 (a)). -/
theorem Fifo.head_push_of_full {d : Nat} {f : Fifo} (hw : f.wr < 2 * d) (hr : f.rd < 2 * d) (hfull : f.count d = d)
    (b : Byte) : (f.push d b).head d = b := by
  have hslot : f.wr % d = f.rd % d := by rw [Fifo.wr_mod_eq hw hr, hfull, Nat.add_mod_right]
  rw [Fifo.head, Fifo.push_rd, Fifo.push_mem, hslot, Memory.read_write_same]

/-- Settles O54: D + 1 is below 2*D because D is at least 2, and 2*D is the modulus of Count. -/
theorem fifoOverflow : Obligations.FifoOverflow := by
  intro p f b hw hr
  obtain ⟨hD, -⟩ := Params.fifoDepth_le p
  refine ⟨fun hfull => ⟨Fifo.head_push_of_full hw hr hfull b, ?_⟩, fun hlast => ?_⟩
  · rw [Fifo.count_push (Params.fifoDepth_pos p), hfull, Nat.mod_eq_of_lt (by omega)]
  · rw [Fifo.count_push (Params.fifoDepth_pos p), hlast, Nat.sub_add_cancel (by omega), Nat.mod_self]

/-! ### The FIFO over a cycle with no command -/

/-- The pre-state FIFO with the byte of phase 3 popped, if phase 3 pops (10_state.md R44). -/
def fifoAfterPop (s : State) : Fifo :=
  if s.rx.phase ≠ .ready ∧ s.fifoCount ≠ 0 then { s.fifo with rd := s.fifo.nextRd s.params.fifoDepth } else s.fifo

theorem fifoAfterPop_of_pop {s : State} (h : s.rx.phase ≠ .ready ∧ s.fifoCount ≠ 0) :
    fifoAfterPop s = { s.fifo with rd := s.fifo.nextRd s.params.fifoDepth } := if_pos h

theorem fifoAfterPop_of_no_pop {s : State} (h : ¬(s.rx.phase ≠ .ready ∧ s.fifoCount ≠ 0)) :
    fifoAfterPop s = s.fifo := if_neg h

/-- The push and the pop of one cycle move different cursors, so the cycle is the pop followed by the push (10_state.md R43,
R44; 44_circular_buffer.md R259). -/
theorem quietCycle_fifo_pop_push (s : State) : (quietCycle s).fifo =
    if s.input.rxValid = true ∧ rxEn s = true then (fifoAfterPop s).push s.params.fifoDepth s.input.rxData
    else fifoAfterPop s := by
  rw [quietCycle_fifo]
  by_cases hp : s.rx.phase ≠ .ready ∧ s.fifoCount ≠ 0
  · rw [afterDeserializer, if_pos ((pops_none s).mpr hp), fifoAfterPop_of_pop hp, afterIngress_fifo]
    split <;> rfl
  · rw [afterDeserializer, if_neg (mt (pops_none s).mp hp), fifoAfterPop_of_no_pop hp, afterIngress_fifo]

theorem fifoAfterPop_wr (s : State) : (fifoAfterPop s).wr = s.fifo.wr := by
  unfold fifoAfterPop; split <;> rfl

section
variable {s : State} (hw : s.fifo.wr < 2 * s.params.fifoDepth) (hr : s.fifo.rd < 2 * s.params.fifoDepth)
include hr

theorem fifoAfterPop_rd_lt : (fifoAfterPop s).rd < 2 * s.params.fifoDepth := by
  unfold fifoAfterPop
  split
  · exact Nat.mod_lt _ (by omega)
  · exact hr

include hw

/-- The pop takes one from Count (44_circular_buffer.md R253, R261). -/
theorem fifoAfterPop_count : (fifoAfterPop s).count s.params.fifoDepth =
    s.fifoCount - if s.rx.phase ≠ .ready ∧ s.fifoCount ≠ 0 then 1 else 0 := by
  by_cases hp : s.rx.phase ≠ .ready ∧ s.fifoCount ≠ 0
  · rw [fifoAfterPop_of_pop hp, if_pos hp]
    exact (Fifo.unread_pop hw hr hp.2).2
  · rw [fifoAfterPop_of_no_pop hp, if_neg hp]
    rfl

/-- The pop takes the first unread byte; with nothing unread there is none to take (44_circular_buffer.md R253, R260). -/
theorem fifoAfterPop_unread : (fifoAfterPop s).unread s.params.fifoDepth =
    if s.rx.phase ≠ .ready then (s.fifo.unread s.params.fifoDepth).tail else s.fifo.unread s.params.fifoDepth := by
  by_cases hp : s.rx.phase ≠ .ready ∧ s.fifoCount ≠ 0
  · rw [fifoAfterPop_of_pop hp, if_pos hp.1]
    exact (Fifo.unread_pop hw hr hp.2).1
  · rw [fifoAfterPop_of_no_pop hp]
    split
    case isTrue hready =>
      have hempty : s.fifo.count s.params.fifoDepth = 0 := not_not.mp fun hc => hp ⟨hready, hc⟩
      simp [Fifo.unread, hempty]
    case isFalse => rfl

/-- Count over the cycle with no host write (44_circular_buffer.md R261). -/
theorem quietCycle_count : (quietCycle s).fifo.count s.params.fifoDepth =
    (s.fifoCount + (if s.input.rxValid = true ∧ rxEn s = true then 1 else 0)
      - (if s.rx.phase ≠ .ready ∧ s.fifoCount ≠ 0 then 1 else 0)) % (2 * s.params.fifoDepth) := by
  have hlt : s.fifoCount < 2 * s.params.fifoDepth := Fifo.count_lt (Params.fifoDepth_pos s.params) s.fifo
  have hpop : (if s.rx.phase ≠ .ready ∧ s.fifoCount ≠ 0 then 1 else 0) ≤ s.fifoCount := by split <;> omega
  rw [quietCycle_fifo_pop_push]
  split
  · rw [Fifo.count_push (Params.fifoDepth_pos s.params), fifoAfterPop_count hw hr, Nat.sub_add_comm hpop]
  · rw [fifoAfterPop_count hw hr, Nat.add_zero, Nat.mod_eq_of_lt (by omega)]

end

/-- Settles O53: after the pop the FIFO is not full, so the push adds its byte at the end. -/
theorem fifoIsAQueue : Obligations.FifoIsAQueue := by
  intro s hrst hwe hw hr hroom
  refine ⟨_, step_of_no_write hrst hwe, ?_⟩
  have hD := Params.fifoDepth_pos s.params
  have hnotFull : (fifoAfterPop s).count s.params.fifoDepth < s.params.fifoDepth := by
    rw [fifoAfterPop_count hw hr]
    rcases hroom with hlt | ⟨hfull, hready⟩
    · omega
    · rw [if_pos ⟨hready, by omega⟩]
      omega
  rw [quietCycle_fifo_pop_push, ← fifoAfterPop_unread hw hr]
  split
  · exact Fifo.unread_push _ hD (by rwa [fifoAfterPop_wr]) (fifoAfterPop_rd_lt hr) hnotFull
  · rw [List.append_nil]

/-- Settles O55: a cycle that writes no command leaves the FIFO as the cycle with no host write does. -/
theorem fifoOccupancy : Obligations.FifoOccupancy := by
  intro s hrst hf hw hr
  have hwrite := registerWrite_isHostWrite hf
  obtain ⟨hparams, -, -⟩ := runCycle_clock hwrite
  obtain ⟨-, hfifo⟩ := runCycle_receiveSide_of_no_command hwrite hf
  exact ⟨_, step_of_no_command hrst hf, by rw [State.fifoCount, hparams, hfifo, quietCycle_count hw hr]⟩

end Sys2Proof.Machine

namespace Sys2Proof.Machine

open Sys2Proof

/-! ### FIFO_FLUSH -/

/-- A command whose effect writes no register changes STATUS by the events of its cycle alone (10_state.md R47). -/
theorem runCycle_cmd_regs {s : State} {c : Instr} {effect : State → State → State}
    (he : ∀ t, (effect s t).regs = t.regs) : (runCycle s (.cmd c effect)).regs =
      { s.regs with status := s.regs.status ||| (cycleEvents s (.cmd c effect)).bits } := by
  have hstatus : nextStatus s (.cmd c effect) (cycleEvents s (.cmd c effect)) =
      s.regs.status ||| (cycleEvents s (.cmd c effect)).bits := by
    rw [nextStatus, HostWrite.w1cMask, BitVec.not_zero, BitVec.and_allOnes]
  rw [runCycle_cmd, updateStatus, hstatus, nextErr_cmd, he, afterSequencer_regs]
  rfl

/-- An RX-affecting write that aborts no response wait lets the sequencer run on what phase 2 left (10_state.md R44,
R45). -/
theorem afterSequencer_of_rxAffecting {s : State} {h : HostWrite} (hr : rxAffecting s h = true)
    (ha : abortsAwait s h = false) : afterSequencer s h = seqStep s (afterIngress s) s.input.txReady := by
  rw [afterSequencer, ha, afterDeserializer_of_rxAffecting hr]
  rfl

/-- The host write of a FIFO_FLUSH. -/
def fifoFlushWrite : HostWrite := .cmd .fifoFlush fun _ t => { t with fifo := t.fifo.flush }

theorem exec_fifoFlush (s : State) : exec .fifoFlush s = .next (runCycle s fifoFlushWrite) := rfl

theorem afterSequencer_fifoFlushWrite (s : State) :
    afterSequencer s fifoFlushWrite = seqStep s (afterIngress s) s.input.txReady :=
  afterSequencer_of_rxAffecting rfl rfl

theorem runCycle_fifoFlushWrite_fifo (s : State) :
    (runCycle s fifoFlushWrite).fifo = (afterSequencer s fifoFlushWrite).fifo.flush := rfl

theorem runCycle_fifoFlushWrite_sqr (s : State) :
    (runCycle s fifoFlushWrite).sqr = (seqStep s (afterIngress s) s.input.txReady).sqr := by
  rw [← afterSequencer_fifoFlushWrite]
  rfl

theorem runCycle_fifoFlushWrite_rx (s : State) :
    (runCycle s fifoFlushWrite).rx = (seqStep s (afterIngress s) s.input.txReady).rx := by
  rw [← afterSequencer_fifoFlushWrite]
  rfl

/-- FIFO_FLUSH leaves the receive unit to the sequencer's RxReset (44_circular_buffer.md R258; 43_controller.md R231,
R232). -/
theorem runCycle_fifoFlushWrite_rx_of_resets {s : State} (h : sequencerResetsRx s s.rx) :
    (runCycle s fifoFlushWrite).rx = s.rx.reset := by
  rw [← afterIngress_rx s] at h ⊢
  rw [runCycle_fifoFlushWrite_rx, seqStep_rx_of_resets h]

theorem runCycle_fifoFlushWrite_rx_of_not_resets {s : State} (h : ¬sequencerResetsRx s s.rx) :
    (runCycle s fifoFlushWrite).rx = s.rx := by
  rw [← afterIngress_rx s] at h
  rw [runCycle_fifoFlushWrite_rx, seqStep_rx_of_not_resets h, afterIngress_rx]

/-- RxReset at a guard end needs MODE = 1 (43_controller.md R231). -/
theorem sequencerResetsRx_of_guard {s : State} (hs : s.sqr.seq = .guard) (r : RxUnit) :
    sequencerResetsRx s r ↔ s.sqr.gcnt = s.regs.guard ∧ s.sqr.mode = true := by
  simp [sequencerResetsRx, hs]

/-- RxReset in a response wait that has received nothing needs the timeout (43_controller.md R232). -/
theorem sequencerResetsRx_of_await {s : State} {r : RxUnit} (hs : s.sqr.seq = .await) (hp : r.phase ≠ .ready) :
    sequencerResetsRx s r ↔ s.sqr.tmr = s.regs.timeout := by
  simp [sequencerResetsRx, hs, hp]

theorem not_sequencerResetsRx {s : State} (hawait : s.sqr.seq ≠ .await) (hguard : s.sqr.seq ≠ .guard) (r : RxUnit) :
    ¬sequencerResetsRx s r := by
  simp [sequencerResetsRx, hawait, hguard]

theorem runCycle_fifoFlushWrite_sqr_of_await {s : State} (hs : s.sqr.seq = .await) (hp : s.rx.phase ≠ .ready) :
    (runCycle s fifoFlushWrite).sqr =
      if s.sqr.tmr = s.regs.timeout then { s.sqr with seq := .timedOut }
      else { s.sqr with tmr := s.sqr.tmr + 1#32 } := by
  rw [← afterIngress_rx s] at hp
  rw [runCycle_fifoFlushWrite_sqr, seqStep_sqr_of_await hs hp (afterIngress_sqr s)]

/-- Settles O22: phase 3 is suppressed, phase 4 runs on the ingress, and phase 5 flushes what the ingress left. -/
theorem fifoFlushCommand : Obligations.FifoFlushCommand := by
  intro s
  obtain ⟨hkept, hclock, hingress⟩ := commandsKeepHostRegisters .fifoFlush s _ (exec_fifoFlush s)
  have hregs : (runCycle s fifoFlushWrite).regs =
      { s.regs with status := s.regs.status ||| (cycleEvents s fifoFlushWrite).bits } :=
    runCycle_cmd_regs fun _ => rfl
  refine ⟨_, exec_fifoFlush s, ?rd, ?count, hingress, afterSequencer_tx s fifoFlushWrite, hkept, ?err,
    fun hI2 => ?status, fun hq => ?sqr, fun hawait hguard => ?rx, fun hq => ?rxGuard, fun hq hp => ⟨fun htmr => ?counts,
    fun htmr => ?timesOut⟩, hclock⟩
  case rd => rw [runCycle_fifoFlushWrite_fifo, Fifo.flush_rd, Fifo.flush_wr]
  case count => rw [State.fifoCount, runCycle_fifoFlushWrite_fifo, Fifo.count_flush]
  case err => rw [hregs]
  case status => rw [hregs, cycleEvents_bits_of_rxAffecting rfl rfl rfl hI2]
  case sqr =>
    rw [runCycle_fifoFlushWrite_sqr, quietCycle_sqr, afterSequencer_none]
    exact seqStep_sqr_congr hq (by rw [afterIngress_sqr, afterDeserializer_sqr]) _
  case rx => exact runCycle_fifoFlushWrite_rx_of_not_resets (not_sequencerResetsRx hawait hguard _)
  case rxGuard =>
    have hresets := sequencerResetsRx_of_guard hq s.rx
    split
    case isTrue h => exact runCycle_fifoFlushWrite_rx_of_resets (hresets.mpr h)
    case isFalse h => exact runCycle_fifoFlushWrite_rx_of_not_resets (mt hresets.mp h)
  case counts =>
    rw [runCycle_fifoFlushWrite_sqr_of_await hq hp, if_neg htmr]
    exact ⟨runCycle_fifoFlushWrite_rx_of_not_resets (mt (sequencerResetsRx_of_await hq hp).mp htmr), rfl⟩
  case timesOut =>
    rw [runCycle_fifoFlushWrite_sqr_of_await hq hp, if_pos htmr]
    exact ⟨runCycle_fifoFlushWrite_rx_of_resets ((sequencerResetsRx_of_await hq hp).mpr htmr), rfl⟩

end Sys2Proof.Machine

namespace Sys2Proof.Machine

open Sys2Proof

/-! ### How a response wait ends -/

theorem noReset.head {n : Nat} {s : State} (h : noReset (n + 1) s) : s.input.rst = false := h 0 (Nat.succ_pos n)

theorem noReset.tail {n : Nat} {s t : State} (h : noReset (n + 1) s) (hst : step s = .next t) : noReset n t := by
  intro j hj
  rw [← stateAfter_of_step hst]
  exact h (j + 1) (by omega)

/-- A step of a response wait ends it, unless TMR has not reached TIMEOUT and counts on (43_controller.md R223, R232).
In a state with RXSTATE = READY, which I2 of 10_state.md R48 excludes, it ends as well. -/
theorem step_leaves_await_or_counts {s t : State} (hr : s.input.rst = false) (hs : s.sqr.seq = .await)
    (hst : step s = .next t) :
    t.sqr.seq ≠ .await ∨
      (s.sqr.tmr ≠ s.regs.timeout ∧ t.sqr.tmr = s.sqr.tmr + 1#32 ∧ t.regs.timeout = s.regs.timeout) := by
  obtain ⟨h, hw, he, -⟩ := step_eq_runCycle hr
  obtain rfl : runCycle s h = t := Host.Outcome.next.inj (he.symm.trans hst)
  obtain ⟨-, htimeout, -, hsqr⟩ := runCycle_of_busy hw ((busy_iff s).mpr (.inr (.inr hs)))
  have hu := afterDeserializer_sqr s h
  cases ha : abortsAwait s h with
  | true => exact .inl (by simp [runCycle_sqr_of_abortsAwait hw ha])
  | false =>
    rw [hsqr ha]
    by_cases hp : (afterDeserializer s h).rx.phase = .ready
    · exact .inl (by simp [seqStep_sqr_of_await_ready hs hp hu])
    · rw [seqStep_sqr_of_await hs hp hu]
      by_cases htmr : s.sqr.tmr = s.regs.timeout
      · exact .inl (by simp [htmr])
      · exact .inr ⟨htmr, by simp [htmr], htimeout⟩

/-- A response wait with `n` counts left to TIMEOUT ends within `n + 1` cycles, whatever TMR it begins with
(60_exceptions.md R293). -/
theorem exists_left_await {n : Nat} : ∀ {s : State}, s.sqr.seq = .await →
    (s.regs.timeout - s.sqr.tmr).toNat = n → noReset (n + 1) s →
    ∃ k ≤ n + 1, (stateAfter k s).sqr.seq ≠ .await := by
  induction n with
  | zero =>
    intro s hs hleft hreset
    obtain ⟨t, hst⟩ := step_total s
    have hend : s.sqr.tmr = s.regs.timeout := by bv_omega
    have hmove := step_leaves_await_or_counts hreset.head hs hst
    refine ⟨1, le_rfl, ?_⟩
    rw [stateAfter_of_step hst]
    exact hmove.resolve_right fun ⟨hne, _⟩ => hne hend
  | succ n ih =>
    intro s hs hleft hreset
    obtain ⟨t, hst⟩ := step_total s
    by_cases ht : t.sqr.seq = .await
    · have hmove := step_leaves_await_or_counts hreset.head hs hst
      obtain ⟨hne, htmr, htimeout⟩ := hmove.resolve_left (not_not_intro ht)
      have hleft' : (t.regs.timeout - t.sqr.tmr).toNat = n := by rw [htmr, htimeout]; bv_omega
      obtain ⟨k, hk, hq⟩ := ih ht hleft' (hreset.tail hst)
      exact ⟨k + 1, by omega, by rwa [stateAfter_of_step hst]⟩
    · exact ⟨1, by omega, by rwa [stateAfter_of_step hst]⟩

/-- Settles O41, by induction on the counts left: a wait that begins with TMR = 0 has TIMEOUT of them. -/
theorem awaitEndsWithinTimeoutPlusOne : Obligations.AwaitEndsWithinTimeoutPlusOne :=
  fun s hs htmr hreset => exists_left_await hs (by rw [htmr, BitVec.sub_zero]) hreset

/-! ### Every cycle is taken -/

/-- Settles O7: the reset and every classified host write end in a tick of the clock. -/
theorem everyCycleHasANextState : Obligations.EveryCycleHasANextState := by
  intro s
  cases hr : s.input.rst with
  | true => exact ⟨resetCycle s, by simp [step, hr], rfl, rfl, rfl⟩
  | false =>
    obtain ⟨h, hw, he, -⟩ := step_eq_runCycle hr
    exact ⟨_, he, runCycle_clock hw⟩

/-! ### What BUSY refuses, and what is never refused -/

/-- While BUSY the first check of a command that needs idle decides (30_encoding.md R112). -/
theorem next_commandCycle_of_busy {s : State} (hb : s.busy = true) {c : Instr} {checks : List (Option ErrCode)}
    {effect : State → State → State} :
    Host.Outcome.next (φ := Fault) (ρ := Refusal) (commandCycle s c (busyCheck s :: checks) effect) =
      .next (withRefusal .busy (quietCycle s)) := by
  have hbusy : busyCheck s = some .busy := if_pos hb
  rw [commandCycle_refused]
  rw [hbusy, firstFailure_cons_some]

/-- The commands that need idle (30_encoding.md R110). -/
theorem exec_refused_of_busy {s : State} (hb : s.busy = true) :
    ∀ i ∈ [Instr.setChecksum, .buildRead, .buildWrite8, .buildWrite16, .send, .transact, .receive, .readReg,
      .writeReg8, .writeReg16], exec i s = .next (withRefusal .busy (quietCycle s)) := by
  have hrefused := @next_commandCycle_of_busy s hb
  simp only [List.forall_mem_cons]
  exact ⟨hrefused, hrefused, hrefused, hrefused, hrefused, hrefused, hrefused, hrefused, hrefused, hrefused,
    List.forall_mem_nil _⟩

theorem classifyWrite_of_locked {s : State} {r : Reg} (hb : s.busy = true) (h : r.access = .readWriteLocked)
    (v : Byte) : classifyWrite s r v = .refused .busy := by
  simp [classifyWrite, raiseCmdError, h, hb]

/-- A write that is not refused sets no CMDERR; it gives ERR no code and clears it only with CMDERR (10_state.md
R47). -/
theorem runCycle_error_of_not_refused {h : HostWrite} (hn : ∀ e, h ≠ .refused e) (s : State) :
    (runCycle s h).regs.err = (if h.w1cMask.getLsbD 4 then .none else s.regs.err) ∧
      (runCycle s h).regs.status.getLsbD 4 = (s.regs.status.getLsbD 4 && !h.w1cMask.getLsbD 4) := by
  refine ⟨by rw [runCycle_err, nextErr_of_not_refused hn], Bool.eq_iff_iff.mpr ?_⟩
  obtain ⟨-, -, -, -, hcmdErr⟩ := runCycle_status_events s h
  rw [hcmdErr, or_iff_left (not_exists.mpr hn)]
  simp

theorem runCycle_cmd_error (s : State) (c : Instr) (effect : State → State → State) :
    (runCycle s (.cmd c effect)).regs.err = s.regs.err ∧
      (runCycle s (.cmd c effect)).regs.status.getLsbD 4 = s.regs.status.getLsbD 4 := by
  simpa [HostWrite.w1cMask] using runCycle_error_of_not_refused (h := .cmd c effect) nofun s

/-- The commands without a check (30_encoding.md R110). -/
theorem exec_error_of_unchecked (s : State) :
    ∀ i ∈ [Instr.nop, .rxReset, .fifoFlush, .abort], ∃ t, exec i s = .next t ∧
      t.regs.err = s.regs.err ∧ t.regs.status.getLsbD 4 = s.regs.status.getLsbD 4 := by
  simp only [List.forall_mem_cons]
  have hkept := runCycle_cmd_error s
  exact ⟨⟨_, rfl, hkept _ _⟩, ⟨_, rfl, hkept _ _⟩, ⟨_, rfl, hkept _ _⟩, ⟨_, rfl, hkept _ _⟩, List.forall_mem_nil _⟩

/-- A write to STATUS, IRQ_EN or ARG0 to ARG2 is accepted in every state (20_memory.md R61, R63). -/
theorem step_of_unlocked_write {s : State} (hr : s.input.rst = false) (hw : s.input.busWe = true)
    (ha : s.input.busAddr.toNat = 0x001 ∨ s.input.busAddr.toNat = 0x002 ∨
      0x008 ≤ s.input.busAddr.toNat ∧ s.input.busAddr.toNat ≤ 0x00A) :
    ∃ w effect, step s = .next (runCycle s (.reg w effect)) := by
  rcases ha with hstatus | hplain
  · exact ⟨_, _, step_of_status_write hr hw (BitVec.eq_of_toNat_eq hstatus)⟩
  · rw [step_of_register_write hr hw (by omega), classifyWrite_of_accepted (.inl (regAt_access_readWrite hplain))]
    exact ⟨_, _, rfl⟩

/-- Settles O12: the refusals by the BUSY check and the lock, the rest because such a write is never classified as
refused. -/
theorem busyRefusals : Obligations.BusyRefusals := by
  refine ⟨busy_iff, fun s hb => exec_refused_of_busy hb, fun s hb hr hw ha => ?locked, exec_error_of_unchecked,
    fun s hr hw ha => ?unlocked⟩
  case locked =>
    rw [step_of_register_write hr hw (by omega), classifyWrite_of_locked hb (regAt_access_readWriteLocked ha),
      runCycle_refused]
  case unlocked =>
    obtain ⟨w, effect, hst⟩ := step_of_unlocked_write hr hw ha
    obtain ⟨herr, hcmdErr⟩ := runCycle_error_of_not_refused (h := .reg w effect) nofun s
    refine ⟨_, hst, ?_, fun hset => ?_⟩
    · rw [herr]; split
      · exact .inr rfl
      · exact .inl rfl
    · rw [hcmdErr] at hset
      exact Bool.and_elim_left hset

/-! ### Events of one cycle -/

/-- Every move of SEQ in phase 4, with its cause where the move ends a response wait (10_state.md R45; 43_controller.md
R230 to R232). -/
theorem afterSequencer_seq_cases (s : State) (h : HostWrite) :
    (afterSequencer s h).sqr.seq = s.sqr.seq ∨
    (s.sqr.seq = .sending ∧ (afterSequencer s h).sqr.seq = .guard) ∨
    (s.sqr.seq = .guard ∧ ((afterSequencer s h).sqr.seq = .await ∨ (afterSequencer s h).sqr.seq = .idle)) ∨
    (s.sqr.seq = .await ∧ abortsAwait s h = false ∧ (afterDeserializer s h).rx.phase = .ready ∧
      (afterSequencer s h).sqr.seq = .complete) ∨
    (s.sqr.seq = .await ∧ abortsAwait s h = false ∧ (afterDeserializer s h).rx.phase ≠ .ready ∧
      (afterSequencer s h).sqr.seq = .timedOut) := by
  have hu := afterDeserializer_sqr s h
  cases ha : abortsAwait s h with
  | true => exact .inl (by simp [afterSequencer, ha])
  | false =>
    have hv : afterSequencer s h = seqStep s (afterDeserializer s h) s.input.txReady := by simp [afterSequencer, ha]
    rw [hv]
    cases hs : s.sqr.seq with
    | sending => rw [seqStep_sqr_of_sending hs hu]; (repeat' split) <;> simp [hs]
    | guard => rw [seqStep_sqr_of_guard hs hu]; (repeat' split) <;> simp [hs]
    | await =>
      by_cases hp : (afterDeserializer s h).rx.phase = .ready
      · simp [seqStep_sqr_of_await_ready hs hp hu, hp]
      · rw [seqStep_sqr_of_await hs hp hu]; split <;> simp [hs, hp]
    | idle | complete | timedOut => simp [seqStep, hs]

/-- DONE reports the end of a response wait by a received packet (20_memory.md R66). -/
theorem await_of_done {s : State} {h : HostWrite} (he : (cycleEvents s h).done = true) :
    s.sqr.seq = .await ∧ abortsAwait s h = false ∧ (afterDeserializer s h).rx.phase = .ready := by
  obtain ⟨hne, hq⟩ := of_decide_eq_true he
  rcases afterSequencer_seq_cases s h with e | ⟨-, e⟩ | ⟨-, e | e⟩ | ⟨hs, ha, hp, -⟩ | ⟨-, -, -, e⟩
  case inr.inr.inr.inl => exact ⟨hs, ha, hp⟩
  case inl => exact absurd (e.symm.trans hq) hne
  all_goals exact absurd (e.symm.trans hq) nofun

/-- TIMEOUT reports the end of a response wait that received nothing (20_memory.md R66). -/
theorem await_of_timeout {s : State} {h : HostWrite} (he : (cycleEvents s h).timeout = true) :
    s.sqr.seq = .await ∧ abortsAwait s h = false ∧ (afterDeserializer s h).rx.phase ≠ .ready := by
  obtain ⟨hne, hq⟩ := of_decide_eq_true he
  rcases afterSequencer_seq_cases s h with e | ⟨-, e⟩ | ⟨-, e | e⟩ | ⟨-, -, -, e⟩ | ⟨hs, ha, hp, -⟩
  case inr.inr.inr.inr => exact ⟨hs, ha, hp⟩
  case inl => exact absurd (e.symm.trans hq) hne
  all_goals exact absurd (e.symm.trans hq) nofun

/-- Settles O56: DONE and TIMEOUT end a response wait in opposite ways, TXDONE ends a guard interval, in which the FIFO
is empty by I1 of 10_state.md R48, and phase 6 sets the bit of every event. -/
theorem simultaneousEvents : Obligations.SimultaneousEvents := by
  intro s h hinv
  refine ⟨fun hdone => ?rxRdy, fun ⟨hdone, htimeout⟩ => ?exclusive, fun ha => ?abort, fun htxDone => ?guard,
    fun i hi he => (runCycle_status_iff s h hi).mpr (.inr he)⟩
  case rxRdy =>
    obtain ⟨hs, -, hp⟩ := await_of_done hdone
    exact decide_eq_true ⟨hinv.awaitNotReady hs, hp⟩
  case exclusive =>
    obtain ⟨-, -, hp⟩ := await_of_done hdone
    obtain ⟨-, -, hn⟩ := await_of_timeout htimeout
    exact hn hp
  case abort =>
    refine ⟨Bool.eq_false_iff.mpr fun hdone => ?_, Bool.eq_false_iff.mpr fun htimeout => ?_⟩
    · obtain ⟨-, hn, -⟩ := await_of_done hdone
      exact Bool.false_ne_true (hn.symm.trans ha)
    · obtain ⟨-, hn, -⟩ := await_of_timeout htimeout
      exact Bool.false_ne_true (hn.symm.trans ha)
  case guard =>
    obtain ⟨hs, -⟩ := of_decide_eq_true htxDone
    have hawait : s.sqr.seq ≠ .await := by simp [hs]
    refine ⟨Bool.eq_false_iff.mpr fun hdone => hawait (await_of_done hdone).1,
      Bool.eq_false_iff.mpr fun htimeout => hawait (await_of_timeout htimeout).1,
      Bool.eq_false_iff.mpr fun hrxRdy => ?_⟩
    obtain ⟨hp, hu⟩ := of_decide_eq_true hrxRdy
    obtain ⟨-, hc⟩ := pops_of_enters_ready hp hu
    exact hc (hinv.lineQuiet (.inr hs))

end Sys2Proof.Machine

namespace Sys2Proof.Machine

open Sys2Proof

/-! ### The reset state -/

/-- An IDLE sequencer listens to the line and offers no byte (10_state.md R36, R37). -/
theorem serialOutputs_of_idle {s : State} (hs : s.sqr.seq = .idle) :
    rxEn s = true ∧ txValid s = false ∧ txData s = 0x00#8 := by
  have hn : s.sqr.seq ≠ .sending := by simp [hs]
  refine ⟨Bool.of_not_eq_false fun h => ?_, Bool.of_not_eq_true fun h => hn ((txValid_iff s).mp h), if_neg hn⟩
  rcases (rxEn_eq_false_iff s).mp h with h | h <;> simp [hs] at h

theorem irq_of_status_zero {s : State} (h : s.regs.status = 0#5) : irq s = false := by
  refine Bool.of_not_eq_true fun hirq => ?_
  obtain ⟨i, -, hset, -⟩ := (irq_iff s).mp hirq
  simp [h] at hset

/-- Settles O6: the elements are the reset table's entries, the buffers list nothing, the cursors are equal, and the
outputs are those of an IDLE sequencer with no STATUS bit set. -/
theorem resetStateValues : Obligations.ResetStateValues := by
  intro p c l s
  have hbuffer (i : Nat) : Memory.read [] i = 0x00#8 := Memory.read_nil i
  have hcount : s.fifoCount = 0 := Fifo.count_of_empty rfl
  obtain ⟨hrxEn, htxValid, htxData⟩ := serialOutputs_of_idle (s := s) rfl
  have hirq : irq s = false := irq_of_status_zero rfl
  exact
    ⟨rfl, rfl, rfl, rfl, rfl, rfl, rfl,                 -- sequencer, TIMEOUT, GUARD
      rfl, rfl, rfl, rfl, hbuffer,                      -- TX packet
      rfl, rfl, rfl, rfl, rfl, rfl, hbuffer,            -- receive unit
      hbuffer, rfl, rfl, hcount,                        -- FIFO
      rfl, rfl, rfl, rfl, rfl, rfl,                     -- ARG0 to ARG2, STATUS, IRQ_EN, ERR
      hrxEn, htxValid, htxData, hirq⟩

end Sys2Proof.Machine
